-- ==== Sys2Proof/Word.lean ====
section
/-! DEFINITION. The word types of the block: bytes, 32-bit registers, 16-byte blocks held as four registers, the two
register arrays KEY and ENC_RK/DEC_RK, and the 38-bit host transaction. -/

namespace Sys2Proof

/-- A byte, and an element of GF(2^8) (spec/40_aes_primitives.md R100). -/
abbrev Byte := BitVec 8

/-- One 32-bit register of the window (spec/20_memory.md R51). -/
abbrev Word := BitVec 32

/-- One transaction of the host port: `we` at bit 37, `idx` at bits 36..32, `wdata` at bits 31..0
(spec/30_encoding.md R80). -/
abbrev Transaction := BitVec 38

/-- A 16-byte block as a word-block, four registers X[0..3]; column c of the AES state is word c
(spec/40_aes_primitives.md R105). -/
structure Block where
  w0 : Word
  w1 : Word
  w2 : Word
  w3 : Word
  deriving DecidableEq, Repr

/-- KEY[0..7] (spec/10_state.md R20). -/
abbrev KeyRegs := Vector Word 8

/-- The fixed-capacity array of a key schedule, ENC_RK or DEC_RK (spec/00_scope.md R4). -/
abbrev Schedule := Vector Word 60

/-- The all-zero block. -/
def Block.zero : Block := ⟨0, 0, 0, 0⟩

/-- KEY[0..7] all zero. -/
def KeyRegs.zero : KeyRegs := Vector.replicate 8 0

/-- A schedule of zero words. -/
def Schedule.zero : Schedule := Vector.replicate 60 0

end Sys2Proof
end

