-- ==== Sys2Proof/Config.lean ====
section
/-! DEFINITION. What the hardware fixes: the key lengths, the chaining modes, the two directions, and the one
parameter the spec leaves open, CTR_COUNTER_ORDER, with the value this hardware takes. No value is left free: the spec
gives nothing as "any value" (spec/93_implementation_defined.md). -/

namespace Sys2Proof

/-- The three key lengths (spec/00_scope.md R2). -/
inductive KeyLen where
  | aes128
  | aes192
  | aes256
  deriving DecidableEq, Repr

/-- The six chaining modes (spec/30_encoding.md R73). -/
inductive Mode where
  | ecb
  | cbc
  | pcbc
  | cfb
  | ofb
  | ctr
  deriving DecidableEq, Repr

/-- The two directions (spec/30_encoding.md R74). -/
inductive Dir where
  | encrypt
  | decrypt
  deriving DecidableEq, Repr

/-- The two readings of "a big-endian 128-bit value over the word-block" (spec/00_scope.md R5,
spec/44_mode_engine.md R177). -/
inductive CounterOrder where
  | byteBE
  | wordBE
  deriving DecidableEq, Repr

/-- This hardware takes BYTE_BE (spec/00_scope.md R5; log entry 6). -/
def Config.ctrCounterOrder : CounterOrder := .byteBE

end Sys2Proof
end

