-- ==== Sys2Proof/Syntax.lean ====
section
/-! DEFINITION. The instructions: one constructor per row of spec/opcode_table.json. The six commands are written to CMD
as one transaction each; HOST_WRITE and HOST_READ are the other transactions of the port. -/

namespace Sys2Proof

/-- One host transaction, by what it asks of the block (spec/30_encoding.md R71, R80). -/
inductive Instr where
  /-- SET_KEY with its raw KLEN and MODE fields; the reserved codes reach the command, which refuses them (R130). -/
  | setKey (klen : BitVec 2) (mode : BitVec 3) (dir : Dir)
  /-- SET_IV (R178). -/
  | setIv
  /-- ENCRYPT_BLOCK (R151). -/
  | encryptBlock
  /-- DECRYPT_BLOCK (R162). -/
  | decryptBlock
  /-- PROCESS_BLOCK (R170). -/
  | processBlock
  /-- ZEROIZE (R200). -/
  | zeroize
  /-- HOST_WRITE of a value to a slot (R52). -/
  | hostWrite (idx : BitVec 5) (wdata : Word)
  /-- HOST_READ of a slot (R52). -/
  | hostRead (idx : BitVec 5)
  deriving DecidableEq, Repr

end Sys2Proof
end

