-- ==== Sys2Proof/WellFormed.lean ====
section
/-! DEFINITION. Which command words are legal (spec/30_encoding.md R76), and the canonical spelling of an instruction: a
write to CMD of a legal word is written as its command. -/

namespace Sys2Proof

/-- A command word is illegal when OP is 0x0 or 0x7 to 0xF, or OP = 0x1 and any of bits [7:6], [11], [31:13] is 1, or
OP is 0x2 to 0x6 and any of bits [31:4] is 1 (spec/30_encoding.md R76). -/
def illegalCommand (cw : Word) : Bool :=
  let op := (cw.extractLsb' 0 4).toNat
  (op == 0 || decide (7 ≤ op))
  || (op == 1 && (cw.extractLsb' 6 2 != 0 || cw.getLsbD 11 || cw.extractLsb' 13 19 != 0))
  || (decide (2 ≤ op) && decide (op ≤ 6) && cw.extractLsb' 4 28 != 0)

/-- The canonical spelling: a HOST_WRITE to CMD (slot 0) stands only for an illegal word, since a legal word is the
command itself (spec/30_encoding.md R80; log entry 5). Every field otherwise takes every value of its width. -/
def wellFormed : Instr → Bool
  | .setKey _ _ _ => true
  | .setIv => true
  | .encryptBlock => true
  | .decryptBlock => true
  | .processBlock => true
  | .zeroize => true
  | .hostWrite idx wdata => idx != 0 || illegalCommand wdata
  | .hostRead _ => true

end Sys2Proof
end

