-- ==== Sys2Proof/Decode.lean ====
section
/-! DEFINITION. The field codes of a command word, the decoder of a CMD32 word (spec/30_encoding.md R77), the decoder of a
HOST38 transaction (spec/30_encoding.md R80, spec/20_memory.md R51), and the encoder written from the same tables. -/

namespace Sys2Proof

/-! ### Field codes -/

/-- KLEN codes (spec/30_encoding.md R72). -/
def KeyLen.code : KeyLen → BitVec 2
  | .aes128 => 0
  | .aes192 => 1
  | .aes256 => 2

/-- The key length a KLEN code selects; 3 is reserved (spec/30_encoding.md R72). -/
def KeyLen.ofCode (c : BitVec 2) : Option KeyLen :=
  if c = 0 then some .aes128
  else if c = 1 then some .aes192
  else if c = 2 then some .aes256
  else none

/-- MODE codes (spec/30_encoding.md R73). -/
def Mode.code : Mode → BitVec 3
  | .ecb => 0
  | .cbc => 1
  | .pcbc => 2
  | .cfb => 3
  | .ofb => 4
  | .ctr => 5

/-- The mode a MODE code selects; 6 and 7 are reserved (spec/30_encoding.md R73). -/
def Mode.ofCode (c : BitVec 3) : Option Mode :=
  if c = 0 then some .ecb
  else if c = 1 then some .cbc
  else if c = 2 then some .pcbc
  else if c = 3 then some .cfb
  else if c = 4 then some .ofb
  else if c = 5 then some .ctr
  else none

/-- DIR codes (spec/30_encoding.md R74). -/
def Dir.code : Dir → BitVec 1
  | .encrypt => 0
  | .decrypt => 1

/-- The direction of a DIR bit; every value is legal (spec/30_encoding.md R74). -/
def Dir.ofBit (b : Bool) : Dir := if b then .decrypt else .encrypt

/-! ### Command words (format CMD32) -/

/-- Why a bit pattern is not an instruction: an illegal command word (spec/30_encoding.md R76), or bits that are not one
transaction of the port (spec/20_memory.md R56). -/
inductive DecodeError where
  | illegalCommand
  | transactionForm
  deriving DecidableEq, Repr

/-- `Decode(cw)`, total over all 2^32 words (spec/30_encoding.md R77): the legality of the reserved bits first, then the
command that OP selects. -/
def decodeCommand (cw : Word) : Except DecodeError Instr :=
  let op := cw.extractLsb' 0 4
  if op = 1 then
    if cw.extractLsb' 6 2 ≠ 0 ∨ cw.getLsbD 11 ∨ cw.extractLsb' 13 19 ≠ 0 then .error .illegalCommand
    else .ok (.setKey (cw.extractLsb' 4 2) (cw.extractLsb' 8 3) (Dir.ofBit (cw.getLsbD 12)))
  else if op = 2 ∨ op = 3 ∨ op = 4 ∨ op = 5 ∨ op = 6 then
    if cw.extractLsb' 4 28 ≠ 0 then .error .illegalCommand
    else if op = 2 then .ok .setIv
    else if op = 3 then .ok .encryptBlock
    else if op = 4 then .ok .decryptBlock
    else if op = 5 then .ok .processBlock
    else .ok .zeroize
  else .error .illegalCommand

/-- The word of SET_KEY: 0x1, KLEN << 4, MODE << 8, DIR << 12 (spec/30_encoding.md R70, R80). -/
def setKeyWord (klen : BitVec 2) (mode : BitVec 3) (dir : Dir) : Word :=
  0x1 ||| klen.setWidth 32 <<< 4 ||| mode.setWidth 32 <<< 8 ||| dir.code.setWidth 32 <<< 12

/-- The command word of an instruction that is a command (spec/30_encoding.md R71); a host transaction has none. -/
def commandWord : Instr → Option Word
  | .setKey klen mode dir => some (setKeyWord klen mode dir)
  | .setIv => some 0x2
  | .encryptBlock => some 0x3
  | .decryptBlock => some 0x4
  | .processBlock => some 0x5
  | .zeroize => some 0x6
  | .hostWrite _ _ => none
  | .hostRead _ => none

/-! ### Host transactions (format HOST38) -/

/-- The transaction with the given `we`, `idx` and `wdata` (spec/30_encoding.md R80). -/
def transactionWord (we : Bool) (idx : BitVec 5) (wdata : Word) : Transaction :=
  (BitVec.ofBool we).setWidth 38 <<< 37 ||| idx.setWidth 38 <<< 32 ||| wdata.setWidth 38

/-- HOST_WRITE of a command word to CMD, slot 0 (spec/30_encoding.md R80). -/
def commandTransaction (cw : Word) : Transaction := transactionWord true 0 cw

/-- What a write is: a legal word written to CMD is its command (spec/30_encoding.md R77), any other write is a HOST_WRITE
(log entry 5). -/
def decodeWrite (idx : BitVec 5) (wdata : Word) : Instr :=
  if idx = 0 then
    match decodeCommand wdata with
    | .ok i => i
    | .error _ => .hostWrite idx wdata
  else .hostWrite idx wdata

/-- The decoder of the port, total on all 2^38 transactions: a read ignores `wdata` (spec/20_memory.md R51, R52). -/
def decodeTransaction (t : Transaction) : Instr :=
  let idx := t.extractLsb' 32 5
  let wdata := t.extractLsb' 0 32
  if t.getLsbD 37 then decodeWrite idx wdata else .hostRead idx

/-- The transaction of an instruction (spec/30_encoding.md R80): a command is written to CMD; the ignored `wdata` of a read
is 0. -/
def encode (i : Instr) : Transaction :=
  match i with
  | .setKey klen mode dir => commandTransaction (setKeyWord klen mode dir)
  | .setIv => commandTransaction 0x2
  | .encryptBlock => commandTransaction 0x3
  | .decryptBlock => commandTransaction 0x4
  | .processBlock => commandTransaction 0x5
  | .zeroize => commandTransaction 0x6
  | .hostWrite idx wdata => transactionWord true idx wdata
  | .hostRead idx => transactionWord false idx 0

/-! ### Any bits -/

/-- The transaction by which bits of a given width reach the block: 32 bits are a command word, which reaches it as a write
to CMD (spec/30_encoding.md R70, R80); 38 bits, or 40 with the two above them 0, are a transaction. Other widths, and bits
outside them, are no transaction (spec/20_memory.md R56). -/
def transactionOfBits (nbits w : Nat) : Option Transaction :=
  if nbits = 32 ∧ w < 2 ^ 32 then some (commandTransaction (BitVec.ofNat 32 w))
  else if (nbits = 38 ∨ nbits = 40) ∧ w < 2 ^ 38 then some (BitVec.ofNat 38 w)
  else none

/-- The decoder on any bits, refusing by name: 32 bits must be a legal command word (spec/30_encoding.md R76). -/
def decodeBits (nbits w : Nat) : Except DecodeError Instr :=
  match transactionOfBits nbits w with
  | none => .error .transactionForm
  | some t => if nbits = 32 then decodeCommand (BitVec.ofNat 32 w) else .ok (decodeTransaction t)

/-- The instruction the decoder reads from the bits of a row of spec/opcode_table.json. -/
def decodeTableWord (nbits w : Nat) : Option Instr :=
  match decodeBits nbits w with
  | .ok i => some i
  | .error _ => none

end Sys2Proof
end

