-- ==== Sys2Proof/Machine/State.lean ====
section
/-! DEFINITION. The state of the block (spec/10_state.md), the reasons a step can stop, and the state after reset
(spec/70_reset_and_hazards.md R240). -/

namespace Sys2Proof.Machine

/-- Faults: there is none. No command and no host transaction stops the block; an error is recorded in STATUS and the next
command runs normally (spec/60_exceptions.md R211, R215, R216, R225). So no constructor, and nothing raises one: safe. -/
inductive Fault where
  deriving DecidableEq, Repr

/-- Refusals. -/
inductive Refusal where
  /-- Raised by no arm of this model, since every instruction has its meaning; it would name one without. Safe. -/
  | notModelled (mnemonic : String)
  /-- Raised by `step` on a host access that is not of the port's form (narrow, misaligned, outside the window): the port
  cannot express it and the model has no meaning for it (spec/20_memory.md R56, spec/93_implementation_defined.md U8).
  Safe. -/
  | transactionForm
  deriving DecidableEq, Repr

/-- The result codes of ERR (spec/60_exceptions.md R210). -/
inductive ErrCode where
  | ok
  | illegalCmd
  | badKeyLength
  | badMode
  | noKey
  | noIv
  deriving DecidableEq, Repr

/-- An access of the host's bus to the window, by byte offset from the window's base and width in bytes: only a 32-bit access
at a slot's offset is a transaction of the port (spec/20_memory.md R51, R56; log entry 4). -/
structure ByteAccess where
  we : Bool
  offset : Nat
  bytes : Nat
  wdata : Word
  deriving DecidableEq, Repr

/-- What the host can present at the port between steps (spec/20_memory.md R51, spec/70_reset_and_hazards.md R241). -/
inductive HostInput where
  /-- The `rst` input. -/
  | rst
  /-- One transaction of the port. -/
  | transaction (t : Transaction)
  /-- A bus access given by byte offset and width. -/
  | byteAccess (a : ByteAccess)
  deriving DecidableEq, Repr

/-- Every register of spec/10_state.md section 1 in its order, then the model's two fields for the host port. -/
structure State where
  /-- KEY[0..7] (R20). -/
  key : KeyRegs
  /-- IV[0..3] (R21). -/
  iv : Block
  /-- DIN[0..3] (R22). -/
  din : Block
  /-- DOUT[0..3] (R23). -/
  dout : Block
  /-- CHAIN[0..3] (R24). -/
  chain : Block
  /-- ENC_RK[0..59] (R25). -/
  encRk : Schedule
  /-- DEC_RK[0..59] (R26). -/
  decRk : Schedule
  /-- NR (R27). -/
  nr : BitVec 5
  /-- CFG_KLEN (R28). -/
  cfgKlen : KeyLen
  /-- CFG_MODE (R29). -/
  cfgMode : Mode
  /-- CFG_DIR (R30). -/
  cfgDir : Dir
  /-- KEY_VALID (R31). -/
  keyValid : Bool
  /-- IV_VALID (R32). -/
  ivValid : Bool
  /-- ERR (R33). -/
  err : ErrCode
  /-- ANYERR (R34). -/
  anyErr : Bool
  /-- The model's own: what the host has issued and the block has not taken yet, oldest first (log entry 1). -/
  pending : List HostInput
  /-- The model's own: the values the host's reads returned, oldest first, an observation in the sense of
  spec/20_memory.md R63 (log entry 2). -/
  observed : List Word
  deriving DecidableEq, Repr

/-- The state after reset: every element zero (spec/70_reset_and_hazards.md R240), the host having issued and observed
nothing. -/
def State.reset : State where
  key := KeyRegs.zero
  iv := Block.zero
  din := Block.zero
  dout := Block.zero
  chain := Block.zero
  encRk := Schedule.zero
  decRk := Schedule.zero
  nr := 0
  cfgKlen := .aes128
  cfgMode := .ecb
  cfgDir := .encrypt
  keyValid := false
  ivValid := false
  err := .ok
  anyErr := false
  pending := []
  observed := []

end Sys2Proof.Machine
end

