-- ==== Sys2Proof/Machine/Operands.lean ====
section
/-! DEFINITION. Operands: the little-endian packing of bytes into words (spec/20_memory.md R54), blocks by word and by byte,
and the register map of the window (spec/20_memory.md R51, R52). -/

namespace Sys2Proof

/-! ### Packing -/

/-- Byte j of a word is bits [8j+7:8j] (spec/20_memory.md R54). -/
def byteOf (w : Word) (j : Nat) : Byte := w.extractLsb' (8 * j) 8

/-- The word whose bytes 0 to 3 are given: b0 | b1<<8 | b2<<16 | b3<<24 (spec/20_memory.md R54). -/
def packWord (b0 b1 b2 b3 : Byte) : Word :=
  b0.setWidth 32 ||| b1.setWidth 32 <<< 8 ||| b2.setWidth 32 <<< 16 ||| b3.setWidth 32 <<< 24

/-- `WordsToBytes`: byte 4k+j is byte j of word k (spec/20_memory.md R54). -/
def wordsToBytes : List Word → List Byte
  | [] => []
  | w :: ws => byteOf w 0 :: byteOf w 1 :: byteOf w 2 :: byteOf w 3 :: wordsToBytes ws

/-- `BytesToWords`, on whole words (spec/20_memory.md R54). -/
def bytesToWords : List Byte → List Word
  | b0 :: b1 :: b2 :: b3 :: bs => packWord b0 b1 b2 b3 :: bytesToWords bs
  | _ => []

/-! ### Blocks -/

/-- Register k of a group of four. -/
def Block.word (b : Block) (k : Nat) : Word :=
  match k with
  | 0 => b.w0
  | 1 => b.w1
  | 2 => b.w2
  | 3 => b.w3
  | _ => 0

/-- Write register k of a group of four; there is no fifth. -/
def Block.setWord (b : Block) (k : Nat) (w : Word) : Block :=
  match k with
  | 0 => { b with w0 := w }
  | 1 => { b with w1 := w }
  | 2 => { b with w2 := w }
  | 3 => { b with w3 := w }
  | _ => b

/-- Byte n of a block, n = 0 to 15: byte n mod 4 of word n div 4 (spec/20_memory.md R54). -/
def Block.byte (b : Block) (n : Nat) : Byte := byteOf (b.word (n / 4)) (n % 4)

/-- The block whose byte n is `f n` (spec/20_memory.md R54). -/
def Block.ofBytes (f : Nat → Byte) : Block where
  w0 := packWord (f 0) (f 1) (f 2) (f 3)
  w1 := packWord (f 4) (f 5) (f 6) (f 7)
  w2 := packWord (f 8) (f 9) (f 10) (f 11)
  w3 := packWord (f 12) (f 13) (f 14) (f 15)

/-- Exclusive or of two blocks, bytewise and so wordwise (spec/00_scope.md section 5). -/
def Block.xor (a b : Block) : Block where
  w0 := a.w0 ^^^ b.w0
  w1 := a.w1 ^^^ b.w1
  w2 := a.w2 ^^^ b.w2
  w3 := a.w3 ^^^ b.w3

/-- The four words of a block, in order. -/
def Block.words (b : Block) : List Word := [b.w0, b.w1, b.w2, b.w3]

end Sys2Proof

namespace Sys2Proof.Machine

/-! ### The register map -/

/-- What stands at a slot of the window (spec/20_memory.md R52). -/
inductive Slot where
  | cmd
  | status
  | config
  | reserved
  | key (k : Fin 8)
  | iv (k : Fin 4)
  | din (k : Fin 4)
  | dout (k : Fin 4)
  | chain (k : Fin 4)
  deriving DecidableEq, Repr

/-- The register map: 0 CMD, 1 STATUS, 2 CONFIG, 3 reserved, 4..11 KEY, 12..15 IV, 16..19 DIN, 20..23 DOUT, 24..27 CHAIN,
28..31 reserved (spec/20_memory.md R52). -/
def slotOf (idx : BitVec 5) : Slot :=
  let n := idx.toNat
  if n = 0 then .cmd
  else if n = 1 then .status
  else if n = 2 then .config
  else if n = 3 then .reserved
  else if n < 12 then .key (Fin.ofNat 8 (n - 4))
  else if n < 16 then .iv (Fin.ofNat 4 (n - 12))
  else if n < 20 then .din (Fin.ofNat 4 (n - 16))
  else if n < 24 then .dout (Fin.ofNat 4 (n - 20))
  else if n < 28 then .chain (Fin.ofNat 4 (n - 24))
  else .reserved

/-- The transaction of a bus access: slot i stands at byte offset 4i, and only a whole 32-bit access at a slot's offset is
one (spec/20_memory.md R51, R56; log entry 4). -/
def transactionOfAccess (a : ByteAccess) : Option Transaction :=
  if a.bytes = 4 ∧ a.offset % 4 = 0 ∧ a.offset < 128 then
    some (transactionWord a.we (BitVec.ofNat 5 (a.offset / 4)) a.wdata)
  else none

end Sys2Proof.Machine
end

