-- ==== Sys2Proof/Machine/Flags.lean ====
section
/-! DEFINITION. The two status views a host reads: STATUS (spec/10_state.md R35) and CONFIG (spec/10_state.md R36). -/

namespace Sys2Proof.Machine

/-- The result codes (spec/60_exceptions.md R210). -/
def ErrCode.code : ErrCode → BitVec 4
  | .ok => 0
  | .illegalCmd => 1
  | .badKeyLength => 2
  | .badMode => 3
  | .noKey => 4
  | .noIv => 5

/-- One bit as a word. -/
def flagWord (b : Bool) : Word := (BitVec.ofBool b).setWidth 32

/-- STATUS = ANYERR << 8 | ERR << 4 | IV_VALID << 1 | KEY_VALID (spec/10_state.md R35). -/
def statusWord (s : State) : Word :=
  flagWord s.anyErr <<< 8 ||| s.err.code.setWidth 32 <<< 4 ||| flagWord s.ivValid <<< 1 ||| flagWord s.keyValid

/-- CONFIG: KLEN at [5:4], MODE at [10:8], DIR at [12], NR at [20:16], the rest 0 (spec/10_state.md R36). -/
def configWord (s : State) : Word :=
  s.nr.setWidth 32 <<< 16 ||| s.cfgDir.code.setWidth 32 <<< 12 ||| s.cfgMode.code.setWidth 32 <<< 8
    ||| s.cfgKlen.code.setWidth 32 <<< 4

end Sys2Proof.Machine
end

