-- ==== Sys2Proof/Machine/Ops.lean ====
section
/-! DEFINITION. The named operations over the registers: ending a command with success or with an error (the one form of
"exception" this block has, spec/60_exceptions.md R211), the two bodies of a host access (spec/20_memory.md R52, R53),
clearing KEY, dropping the key, reset (spec/70_reset_and_hazards.md R240, R241), and taking the host's next input. -/

namespace Sys2Proof.Machine

/-! ### How a command ends -/

/-- Success: ERR <- OK, ANYERR keeps its value (spec/60_exceptions.md R211). -/
def cmdOk (s : State) : State := { s with err := .ok }

/-- `raise CmdError(code)`: ERR <- code, ANYERR <- 1 (spec/60_exceptions.md R211). It is the whole of taking an exception:
nothing else is saved and control moves nowhere, and so there is no return either (spec/60_exceptions.md R215). -/
def cmdError (code : ErrCode) (s : State) : State := { s with err := code, anyErr := true }

/-! ### Registers -/

/-- KEY[0..7] <- 0 (spec/41_key_schedule.md R134). -/
def clearKey (s : State) : State := { s with key := KeyRegs.zero }

/-- KEY_VALID <- 0, IV_VALID <- 0 (spec/41_key_schedule.md R136). -/
def dropKey (s : State) : State := { s with keyValid := false, ivValid := false }

/-- The value a read of a slot returns (spec/20_memory.md R52, R53): the write-only registers CMD, KEY and IV and the
reserved slots read 0. -/
def readSlot (s : State) (idx : BitVec 5) : Word :=
  match slotOf idx with
  | .cmd => 0
  | .status => statusWord s
  | .config => configWord s
  | .reserved => 0
  | .key _ => 0
  | .iv _ => 0
  | .din k => s.din.word k
  | .dout k => s.dout.word k
  | .chain k => s.chain.word k

/-- A write to a slot other than CMD: KEY, IV and DIN store, the read-only and the reserved slots ignore it
(spec/20_memory.md R52, R53). CMD is no storage (spec/10_state.md R37): its command is run by the meaning of HOST_WRITE. -/
def writeSlot (s : State) (idx : BitVec 5) (wdata : Word) : State :=
  match slotOf idx with
  | .cmd => s
  | .status => s
  | .config => s
  | .reserved => s
  | .key k => { s with key := s.key.set k wdata }
  | .iv k => { s with iv := s.iv.setWord k wdata }
  | .din k => { s with din := s.din.setWord k wdata }
  | .dout _ => s
  | .chain _ => s

/-- A read returns `v` on `rdata`; nothing else changes (spec/20_memory.md R57). -/
def returnData (v : Word) (s : State) : State := { s with observed := s.observed ++ [v] }

/-! ### Reset and the host's inputs -/

/-- The `rst` input: every register of the block as after reset; what the host has issued and seen is the host's
(spec/70_reset_and_hazards.md R240, R241; log entry 11). -/
def applyReset (s : State) : State := { State.reset with pending := s.pending, observed := s.observed }

/-- What the host presents next. -/
inductive Presented where
  /-- Nothing: the block waits. -/
  | nothing
  /-- `rst`, and the state with it taken. -/
  | reset (s : State)
  /-- A transaction, and the state with it taken. -/
  | transaction (t : Transaction) (s : State)
  /-- An access that is not of the port's form. -/
  | malformed
  deriving DecidableEq, Repr

/-- Take the oldest input the host has issued (spec/20_memory.md R59). -/
def takeInput (s : State) : Presented :=
  match s.pending with
  | [] => .nothing
  | .rst :: rest => .reset { s with pending := rest }
  | .transaction t :: rest => .transaction t { s with pending := rest }
  | .byteAccess a :: rest =>
    match transactionOfAccess a with
    | some t => .transaction t { s with pending := rest }
    | none => .malformed

/-- The host issues inputs after those it has issued (spec/20_memory.md R59). -/
def issue (inputs : List HostInput) (s : State) : State := { s with pending := s.pending ++ inputs }

/-- The instruction whose bits are given, presented at the port before everything else (log entry 1); bits that are no
transaction are an access of another form, one that moves no whole register. -/
def presentBits (s : State) (nbits w : Nat) : State :=
  match transactionOfBits nbits w with
  | some t => { s with pending := .transaction t :: s.pending }
  | none => { s with pending := .byteAccess ⟨true, 0, 0, BitVec.ofNat 32 w⟩ :: s.pending }

end Sys2Proof.Machine
end

