-- ==== Sys2Proof/Machine/Field.lean ====
section
/-! DEFINITION. The field GF(2^8) and the two S-boxes (spec/40_aes_primitives.md R100 to R104). -/

namespace Sys2Proof.Machine

/-- Multiplication by x modulo x^8 + x^4 + x^3 + x + 1 (spec/40_aes_primitives.md R101). -/
def xtime (a : Byte) : Byte := (a <<< 1) ^^^ (if a.getLsbD 7 then 0x1b else 0x00)

/-- xtime applied i times; xtime^0 is the identity (spec/40_aes_primitives.md R101). -/
def xtimePow : Nat → Byte → Byte
  | 0, a => a
  | i + 1, a => xtime (xtimePow i a)

/-- `a • b`: the exclusive or of xtime^i(a) over the bits i of b that are 1 (spec/40_aes_primitives.md R101). -/
def gfMul (a b : Byte) : Byte :=
  (List.range 8).foldl (fun acc i => if b.getLsbD i then acc ^^^ xtimePow i a else acc) 0

/-- a^(2^k) under `•`. -/
def gfSquares : Nat → Byte → Byte
  | 0, a => a
  | k + 1, a => gfMul (gfSquares k a) (gfSquares k a)

/-- inv(a) = a^254 under `•`, as a^2 • a^4 • ... • a^128 (spec/40_aes_primitives.md R102). -/
def gfInv (a : Byte) : Byte :=
  gfMul (gfSquares 1 a) (gfMul (gfSquares 2 a) (gfMul (gfSquares 3 a) (gfMul (gfSquares 4 a)
    (gfMul (gfSquares 5 a) (gfMul (gfSquares 6 a) (gfSquares 7 a))))))

/-- The affine map: bit i of the result is b[i] ⊕ b[i+4] ⊕ b[i+5] ⊕ b[i+6] ⊕ b[i+7] ⊕ c[i], indices modulo 8, c = 0x63;
bit i of a rotation right by k is b[i+k] (spec/40_aes_primitives.md R103). -/
def affine (b : Byte) : Byte :=
  b ^^^ b.rotateRight 4 ^^^ b.rotateRight 5 ^^^ b.rotateRight 6 ^^^ b.rotateRight 7 ^^^ 0x63

/-- Entry a of a table of 16 rows of 16 bytes, row = high hex digit, column = low hex digit, column 0 printed first. -/
def tableByte (rows : List (BitVec 128)) (a : Byte) : Byte :=
  (rows.getD (a.toNat / 16) 0).extractLsb' (8 * (15 - a.toNat % 16)) 8

/-- The table of spec/40_aes_primitives.md R103, row by row. -/
def sboxRows : List (BitVec 128) := [
  0x637c777bf26b6fc53001672bfed7ab76, 0xca82c97dfa5947f0add4a2af9ca472c0,
  0xb7fd9326363ff7cc34a5e5f171d83115, 0x04c723c31896059a071280e2eb27b275,
  0x09832c1a1b6e5aa0523bd6b329e32f84, 0x53d100ed20fcb15b6acbbe394a4c58cf,
  0xd0efaafb434d338545f9027f503c9fa8, 0x51a3408f929d38f5bcb6da2110fff3d2,
  0xcd0c13ec5f974417c4a77e3d645d1973, 0x60814fdc222a908846eeb814de5e0bdb,
  0xe0323a0a4906245cc2d3ac629195e479, 0xe7c8376d8dd54ea96c56f4ea657aae08,
  0xba78252e1ca6b4c6e8dd741f4bbd8b8a, 0x703eb5664803f60e613557b986c11d9e,
  0xe1f8981169d98e949b1e87e9ce5528df, 0x8ca1890dbfe6426841992d0fb054bb16]

/-- The table of spec/40_aes_primitives.md R104, row by row. -/
def invSboxRows : List (BitVec 128) := [
  0x52096ad53036a538bf40a39e81f3d7fb, 0x7ce339829b2fff87348e4344c4dee9cb,
  0x547b9432a6c2233dee4c950b42fac34e, 0x082ea16628d924b2765ba2496d8bd125,
  0x72f8f66486689816d4a45ccc5d65b692, 0x6c704850fdedb9da5e154657a78d9d84,
  0x90d8ab008cbcd30af7e45805b8b34506, 0xd02c1e8fca3f0f02c1afbd0301138a6b,
  0x3a9111414f67dcea97f2cfcef0b4e673, 0x96ac7422e7ad3585e2f937e81c75df6e,
  0x47f11a711d29c5896fb7620eaa18be1b, 0xfc563e4bc6d279209adbc0fe78cd5af4,
  0x1fdda8338807c731b11210592780ec5f, 0x60517fa919b54a0d2de57a9f93c99cef,
  0xa0e03b4dae2af5b0c8ebbb3c83539961, 0x172b047eba77d626e169146355210c7d]

/-- The S-box (spec/40_aes_primitives.md R103). -/
def sbox (a : Byte) : Byte := tableByte sboxRows a

/-- The inverse S-box (spec/40_aes_primitives.md R104). -/
def invSbox (a : Byte) : Byte := tableByte invSboxRows a

end Sys2Proof.Machine
end

