-- ==== Sys2Proof/Machine/Rounds.lean ====
section
/-! DEFINITION. The round steps of the two transforms (spec/40_aes_primitives.md R105 to R112), round keys, and the transforms
E (spec/42_block_encrypt.md R150) and D (spec/43_block_decrypt.md R160), with the straightforward inverse cipher of
spec/43_block_decrypt.md R161. The state of a transform is a block; byte n stands at row n mod 4, column n div 4. -/

namespace Sys2Proof.Machine

/-! ### Forward steps -/

/-- SubBytes(s)[n] = Sbox(s[n]) (spec/40_aes_primitives.md R106). -/
def subBytes (s : Block) : Block := Block.ofBytes fun n => sbox (s.byte n)

/-- ShiftRows(s)[r + 4c] = s[r + 4((c + r) mod 4)] (spec/40_aes_primitives.md R107). -/
def shiftRows (s : Block) : Block :=
  Block.ofBytes fun n => s.byte (n % 4 + 4 * ((n / 4 + n % 4) % 4))

/-- One column of MixColumns (spec/40_aes_primitives.md R108). -/
def mixColumn (w : Word) : Word :=
  let a0 := byteOf w 0
  let a1 := byteOf w 1
  let a2 := byteOf w 2
  let a3 := byteOf w 3
  packWord
    (gfMul a0 0x02 ^^^ gfMul a1 0x03 ^^^ a2 ^^^ a3)
    (a0 ^^^ gfMul a1 0x02 ^^^ gfMul a2 0x03 ^^^ a3)
    (a0 ^^^ a1 ^^^ gfMul a2 0x02 ^^^ gfMul a3 0x03)
    (gfMul a0 0x03 ^^^ a1 ^^^ a2 ^^^ gfMul a3 0x02)

/-- MixColumns: every column (spec/40_aes_primitives.md R108). -/
def mixColumns (s : Block) : Block := ⟨mixColumn s.w0, mixColumn s.w1, mixColumn s.w2, mixColumn s.w3⟩

/-- AddRoundKey(s, k)[n] = s[n] ⊕ k[n] (spec/40_aes_primitives.md R109). -/
def addRoundKey (s k : Block) : Block := s.xor k

/-! ### Inverse steps -/

/-- InvSubBytes(s)[n] = InvSbox(s[n]) (spec/40_aes_primitives.md R110). -/
def invSubBytes (s : Block) : Block := Block.ofBytes fun n => invSbox (s.byte n)

/-- InvShiftRows(s)[r + 4c] = s[r + 4((c - r) mod 4)] (spec/40_aes_primitives.md R111). -/
def invShiftRows (s : Block) : Block :=
  Block.ofBytes fun n => s.byte (n % 4 + 4 * ((n / 4 + 4 - n % 4) % 4))

/-- One column of InvMixColumns (spec/40_aes_primitives.md R112). -/
def invMixColumn (w : Word) : Word :=
  let a0 := byteOf w 0
  let a1 := byteOf w 1
  let a2 := byteOf w 2
  let a3 := byteOf w 3
  packWord
    (gfMul a0 0x0e ^^^ gfMul a1 0x0b ^^^ gfMul a2 0x0d ^^^ gfMul a3 0x09)
    (gfMul a0 0x09 ^^^ gfMul a1 0x0e ^^^ gfMul a2 0x0b ^^^ gfMul a3 0x0d)
    (gfMul a0 0x0d ^^^ gfMul a1 0x09 ^^^ gfMul a2 0x0e ^^^ gfMul a3 0x0b)
    (gfMul a0 0x0b ^^^ gfMul a1 0x0d ^^^ gfMul a2 0x09 ^^^ gfMul a3 0x0e)

/-- InvMixColumns: every column (spec/40_aes_primitives.md R112). -/
def invMixColumns (s : Block) : Block :=
  ⟨invMixColumn s.w0, invMixColumn s.w1, invMixColumn s.w2, invMixColumn s.w3⟩

/-! ### Round keys -/

/-- Word i of a schedule. The capacity is 60 words and no state a run reaches asks for more (spec/10_state.md R27); past it
the model reads 0 (log entry 7). -/
def scheduleWord (rk : Schedule) (i : Nat) : Word := rk[i]?.getD 0

/-- Round key r: words 4r to 4r+3 (spec/10_state.md R25, R26). -/
def roundKey (rk : Schedule) (r : Nat) : Block :=
  ⟨scheduleWord rk (4 * r), scheduleWord rk (4 * r + 1), scheduleWord rk (4 * r + 2), scheduleWord rk (4 * r + 3)⟩

/-! ### The forward transform E -/

/-- The state after the AddRoundKey of round r: the initial one for r = 0, then the full rounds
(spec/42_block_encrypt.md R150). -/
def encryptRounds (rk : Schedule) (input : Block) : Nat → Block
  | 0 => addRoundKey input (roundKey rk 0)
  | r + 1 => addRoundKey (mixColumns (shiftRows (subBytes (encryptRounds rk input r)))) (roundKey rk (r + 1))

/-- E(in) under a schedule and a round count: the rounds 1 to N_r - 1, then the last without MixColumns
(spec/42_block_encrypt.md R150). -/
def encryptBlock (rk : Schedule) (nr : Nat) (input : Block) : Block :=
  addRoundKey (shiftRows (subBytes (encryptRounds rk input (nr - 1)))) (roundKey rk nr)

/-! ### The inverse transform D -/

/-- The state after the AddRoundKey of round r of D, InvMixColumns before AddRoundKey (spec/43_block_decrypt.md R160,
spec/90_conflicts.md C2). -/
def decryptRounds (drk : Schedule) (input : Block) : Nat → Block
  | 0 => addRoundKey input (roundKey drk 0)
  | r + 1 =>
    addRoundKey (invMixColumns (invSubBytes (invShiftRows (decryptRounds drk input r)))) (roundKey drk (r + 1))

/-- D(in) under the decryption schedule and a round count (spec/43_block_decrypt.md R160). -/
def decryptBlock (drk : Schedule) (nr : Nat) (input : Block) : Block :=
  addRoundKey (invSubBytes (invShiftRows (decryptRounds drk input (nr - 1)))) (roundKey drk nr)

/-- D'(in), the straightforward inverse cipher over the encryption round keys: `n` middle rounds with the round keys
n, n-1, ..., 1, then the last (spec/43_block_decrypt.md R161). -/
def straightInverseRounds (rk : Schedule) : Nat → Block → Block
  | 0, s => addRoundKey (invSubBytes (invShiftRows s)) (roundKey rk 0)
  | r + 1, s =>
    straightInverseRounds rk r (invMixColumns (addRoundKey (invSubBytes (invShiftRows s)) (roundKey rk (r + 1))))

/-- D'(in) (spec/43_block_decrypt.md R161). -/
def straightInverse (rk : Schedule) (nr : Nat) (input : Block) : Block :=
  straightInverseRounds rk (nr - 1) (addRoundKey input (roundKey rk nr))

end Sys2Proof.Machine
end

