-- ==== Sys2Proof/Machine/KeySchedule.lean ====
section
/-! DEFINITION. The key schedule, forward and inverse, and the command SET_KEY (spec/41_key_schedule.md). -/

namespace Sys2Proof.Machine

/-! ### Sizes -/

/-- N_k, the secret's length in words (spec/00_scope.md R3). -/
def keyWords : KeyLen → Nat
  | .aes128 => 4
  | .aes192 => 6
  | .aes256 => 8

/-- N_r, the round count (spec/00_scope.md R3). -/
def rounds : KeyLen → Nat
  | .aes128 => 10
  | .aes192 => 12
  | .aes256 => 14

/-! ### Expansion steps -/

/-- RotWord: (a0, a1, a2, a3) becomes (a1, a2, a3, a0), a rotation right by 8 of the stored word
(spec/40_aes_primitives.md R114, R115). -/
def rotWord (w : Word) : Word := packWord (byteOf w 1) (byteOf w 2) (byteOf w 3) (byteOf w 0)

/-- SubWord: the S-box on each byte (spec/40_aes_primitives.md R115). -/
def subWord (w : Word) : Word :=
  packWord (sbox (byteOf w 0)) (sbox (byteOf w 1)) (sbox (byteOf w 2)) (sbox (byteOf w 3))

/-- rc[j]: rc[1] = 0x01, rc[j] = xtime(rc[j-1]); only j = 1 to 10 is used (spec/40_aes_primitives.md R116). -/
def roundConstant : Nat → Byte
  | 0 => 0x00
  | 1 => 0x01
  | j + 2 => xtime (roundConstant (j + 1))

/-- Rcon[j] = (rc[j], 0, 0, 0) (spec/40_aes_primitives.md R116). -/
def rcon (j : Nat) : Word := packWord (roundConstant j) 0 0 0

/-- What word i takes from word i - 1 before the exclusive or with word i - N_k (spec/41_key_schedule.md R131). -/
def expansionTerm (nk i : Nat) (t : Word) : Word :=
  if i % nk = 0 then subWord (rotWord t) ^^^ rcon (i / nk)
  else if nk = 8 ∧ i % nk = 4 then subWord t
  else t

/-- The next word of a schedule that holds the words before it (spec/41_key_schedule.md R131). -/
def nextWord (nk : Nat) (w : List Word) : Word :=
  w.getD (w.length - nk) 0 ^^^ expansionTerm nk w.length (w.getD (w.length - 1) 0)

/-- Append n more words. -/
def extendWords (nk : Nat) : Nat → List Word → List Word
  | 0, w => w
  | n + 1, w => extendWords nk n (w ++ [nextWord nk w])

/-- KeyExpansion: the N_k words of the secret, then the rest of the 4(N_r+1) words (spec/41_key_schedule.md R131). The
secret's words are KEY's words as stored: WordsToBytes and PackWord undo each other (spec/20_memory.md R54). -/
def keyExpansion (secret : List Word) (nk nr : Nat) : List Word :=
  extendWords nk (4 * (nr + 1) - nk) secret

/-! ### The inverse schedule -/

/-- Round key r of an expansion. -/
def listRoundKey (w : List Word) (r : Nat) : Block :=
  ⟨w.getD (4 * r) 0, w.getD (4 * r + 1) 0, w.getD (4 * r + 2) 0, w.getD (4 * r + 3) 0⟩

/-- Decryption round key r: encryption round key N_r - r, through InvMixColumns when 1 ≤ r ≤ N_r - 1
(spec/41_key_schedule.md R132). -/
def decryptionRoundKey (w : List Word) (nr r : Nat) : Block :=
  if 1 ≤ r ∧ r ≤ nr - 1 then invMixColumns (listRoundKey w (nr - r)) else listRoundKey w (nr - r)

/-- DecryptionSchedule: the decryption round keys 0 to N_r (spec/41_key_schedule.md R132). -/
def decryptionSchedule (w : List Word) (nr : Nat) : List Word :=
  (List.range (nr + 1)).flatMap fun r => (decryptionRoundKey w nr r).words

/-! ### Both schedules of a secret -/

/-- The fixed-capacity array of the words; the words it has none for are zero (spec/41_key_schedule.md R133). -/
def storeSchedule (w : List Word) : Schedule := Vector.ofFn fun i => w.getD i.val 0

/-- The words the secret expands to: KEY[0..N_k-1] is the secret (spec/10_state.md R20, spec/41_key_schedule.md R130). -/
def expandKey (k : KeyLen) (key : KeyRegs) : List Word :=
  keyExpansion (key.toList.take (keyWords k)) (keyWords k) (rounds k)

/-- ENC_RK of a secret (spec/41_key_schedule.md R130, R131, R133). -/
def encSchedule (k : KeyLen) (key : KeyRegs) : Schedule := storeSchedule (expandKey k key)

/-- DEC_RK of a secret (spec/41_key_schedule.md R130, R132, R133). -/
def decSchedule (k : KeyLen) (key : KeyRegs) : Schedule :=
  storeSchedule (decryptionSchedule (expandKey k key) (rounds k))

/-! ### SET_KEY -/

/-- The writes of a SET_KEY that passes its checks: both schedules, NR, the configuration, KEY_VALID <- 1, IV_VALID <- 0;
KEY has been cleared by then (spec/41_key_schedule.md R130, R135). -/
def installKey (k : KeyLen) (m : Mode) (dir : Dir) (secret : KeyRegs) (s : State) : State :=
  { s with
    encRk := encSchedule k secret
    decRk := decSchedule k secret
    nr := BitVec.ofNat 5 (rounds k)
    cfgKlen := k
    cfgMode := m
    cfgDir := dir
    keyValid := true
    ivValid := false }

/-- SET_KEY (spec/41_key_schedule.md R130): clears KEY whatever happens, refuses KLEN 3 with BAD_KEY_LENGTH and then MODE 6
or 7 with BAD_MODE, either dropping the key, and otherwise installs the secret that KEY held. -/
def execSetKey (klen : BitVec 2) (mode : BitVec 3) (dir : Dir) (s : State) : Host.Outcome State Fault Refusal :=
  match KeyLen.ofCode klen with
  | none => .next (cmdError .badKeyLength (dropKey (clearKey s)))
  | some k =>
    match Mode.ofCode mode with
    | none => .next (cmdError .badMode (dropKey (clearKey s)))
    | some m => .next (cmdOk (installKey k m dir s.key (clearKey s)))

end Sys2Proof.Machine
end

