-- ==== Sys2Proof/Machine/Lifecycle.lean ====
section
/-! DEFINITION. Erasure: the command ZEROIZE (spec/45_lifecycle.md R200). -/

namespace Sys2Proof.Machine

/-- Zero every register but ERR and ANYERR (spec/45_lifecycle.md R200). -/
def eraseAll (s : State) : State :=
  { s with
    key := KeyRegs.zero
    iv := Block.zero
    din := Block.zero
    dout := Block.zero
    chain := Block.zero
    encRk := Schedule.zero
    decRk := Schedule.zero
    nr := 0
    cfgKlen := .aes128
    cfgMode := .ecb
    cfgDir := .encrypt
    keyValid := false
    ivValid := false }

/-- ZEROIZE: erase, ERR <- OK, ANYERR keeps its value; no precondition (spec/45_lifecycle.md R200). -/
def execZeroize (s : State) : Host.Outcome State Fault Refusal := .next (cmdOk (eraseAll s))

end Sys2Proof.Machine
end

