-- ==== Sys2Proof/Machine/BlockCommands.lean ====
section
/-! DEFINITION. The raw block commands ENCRYPT_BLOCK (spec/42_block_encrypt.md R151) and DECRYPT_BLOCK
(spec/43_block_decrypt.md R162). -/

namespace Sys2Proof.Machine

/-- E under ENC_RK and NR (spec/42_block_encrypt.md R150). -/
def forward (s : State) (input : Block) : Block := encryptBlock s.encRk s.nr.toNat input

/-- D under DEC_RK and NR (spec/43_block_decrypt.md R160). -/
def inverse (s : State) (input : Block) : Block := decryptBlock s.decRk s.nr.toNat input

/-- ENCRYPT_BLOCK: NO_KEY without a key, else DOUT <- E(DIN) (spec/42_block_encrypt.md R151). -/
def execEncryptBlock (s : State) : Host.Outcome State Fault Refusal :=
  if s.keyValid then .next (cmdOk { s with dout := forward s s.din })
  else .next (cmdError .noKey s)

/-- DECRYPT_BLOCK: NO_KEY without a key, else DOUT <- D(DIN) (spec/43_block_decrypt.md R162). -/
def execDecryptBlock (s : State) : Host.Outcome State Fault Refusal :=
  if s.keyValid then .next (cmdOk { s with dout := inverse s s.din })
  else .next (cmdError .noKey s)

end Sys2Proof.Machine
end

