-- ==== Sys2Proof/Machine/ModeEngine.lean ====
section
/-! DEFINITION. The mode chaining engine: the counter increment under both orders, the mode equations, and the commands
SET_IV and PROCESS_BLOCK (spec/44_mode_engine.md). -/

namespace Sys2Proof.Machine

/-! ### The counter (spec/44_mode_engine.md R177) -/

/-- A word with its four bytes in the other order. -/
def swapWord (w : Word) : Word := packWord (byteOf w 3) (byteOf w 2) (byteOf w 1) (byteOf w 0)

/-- The block with the four bytes of every word in the other order. -/
def swapWords (b : Block) : Block := ⟨swapWord b.w0, swapWord b.w1, swapWord b.w2, swapWord b.w3⟩

/-- WORD_BE: V = c[0]·2^96 + c[1]·2^64 + c[2]·2^32 + c[3] (spec/44_mode_engine.md R177). -/
def blockNumber (b : Block) : BitVec 128 :=
  b.w0.setWidth 128 <<< 96 ||| b.w1.setWidth 128 <<< 64 ||| b.w2.setWidth 128 <<< 32 ||| b.w3.setWidth 128

/-- The block of a 128-bit number under WORD_BE (spec/44_mode_engine.md R177). -/
def numberBlock (v : BitVec 128) : Block :=
  ⟨v.extractLsb' 96 32, v.extractLsb' 64 32, v.extractLsb' 32 32, v.extractLsb' 0 32⟩

/-- Inc128: one more, modulo 2^128. Under BYTE_BE byte 0 is the most significant and byte 15 the least, which is WORD_BE over
words whose bytes are taken in the other order (spec/44_mode_engine.md R177). -/
def inc128 (order : CounterOrder) (ch : Block) : Block :=
  match order with
  | .byteBE => swapWords (numberBlock (blockNumber (swapWords ch) + 1))
  | .wordBE => numberBlock (blockNumber ch + 1)

/-! ### The mode equations -/

/-- One mode step (y, ch') from the input block x and the chained value ch, E and D given (spec/44_mode_engine.md R171 to
R176). CFB, OFB and CTR use E in both directions (R179). -/
def modeStep (order : CounterOrder) (e d : Block → Block) (mode : Mode) (dir : Dir) (x ch : Block) : Block × Block :=
  match mode, dir with
  | .ecb, .encrypt => (e x, ch)
  | .ecb, .decrypt => (d x, ch)
  | .cbc, .encrypt => (e (x.xor ch), e (x.xor ch))
  | .cbc, .decrypt => ((d x).xor ch, x)
  | .pcbc, .encrypt => (e (x.xor ch), (e (x.xor ch)).xor x)
  | .pcbc, .decrypt => ((d x).xor ch, x.xor ((d x).xor ch))
  | .cfb, .encrypt => (x.xor (e ch), x.xor (e ch))
  | .cfb, .decrypt => (x.xor (e ch), x)
  | .ofb, .encrypt => (x.xor (e ch), e ch)
  | .ofb, .decrypt => (x.xor (e ch), e ch)
  | .ctr, .encrypt => (x.xor (e ch), inc128 order ch)
  | .ctr, .decrypt => (x.xor (e ch), inc128 order ch)

/-- The step PROCESS_BLOCK makes in a state: CFG_MODE, CFG_DIR, DIN and CHAIN (spec/44_mode_engine.md R170). -/
def chainStep (order : CounterOrder) (s : State) : Block × Block :=
  modeStep order (forward s) (inverse s) s.cfgMode s.cfgDir s.din s.chain

/-! ### The commands -/

/-- SET_IV: CHAIN <- IV, IV_VALID <- 1; no precondition (spec/44_mode_engine.md R178). -/
def execSetIv (s : State) : Host.Outcome State Fault Refusal :=
  .next (cmdOk { s with chain := s.iv, ivValid := true })

/-- PROCESS_BLOCK under a counter order: NO_KEY, then NO_IV outside ECB, else DOUT and CHAIN from one mode step
(spec/44_mode_engine.md R170). -/
def processBlock (order : CounterOrder) (s : State) : State :=
  if s.keyValid = false then cmdError .noKey s
  else if s.cfgMode ≠ .ecb ∧ s.ivValid = false then cmdError .noIv s
  else cmdOk { s with dout := (chainStep order s).1, chain := (chainStep order s).2 }

/-- PROCESS_BLOCK with the counter order this hardware takes (spec/44_mode_engine.md R170, spec/00_scope.md R5). -/
def execProcessBlock (s : State) : Host.Outcome State Fault Refusal :=
  .next (processBlock Config.ctrCounterOrder s)

end Sys2Proof.Machine
end

