-- ==== Sys2Proof/Machine/HostPort.lean ====
section
/-! DEFINITION. The two host transactions, HOST_WRITE and HOST_READ (spec/20_memory.md R52, R53, R57), the first running the
command of a word written to CMD (spec/30_encoding.md R77). -/

namespace Sys2Proof.Machine

/-- The whole command of a word written to CMD; an illegal word is refused with ILLEGAL_CMD (spec/30_encoding.md R77). The
decoder of command words gives no host transaction, so its two arms are the refusal too. -/
def runCommandWord (cw : Word) (s : State) : Host.Outcome State Fault Refusal :=
  match decodeCommand cw with
  | .error _ => .next (cmdError .illegalCmd s)
  | .ok i =>
    match i with
    | .setKey klen mode dir => execSetKey klen mode dir s
    | .setIv => execSetIv s
    | .encryptBlock => execEncryptBlock s
    | .decryptBlock => execDecryptBlock s
    | .processBlock => execProcessBlock s
    | .zeroize => execZeroize s
    | .hostWrite _ _ => .next (cmdError .illegalCmd s)
    | .hostRead _ => .next (cmdError .illegalCmd s)

/-- HOST_WRITE: slot 0 runs the command, every other slot stores or ignores (spec/20_memory.md R52, R53). -/
def execHostWrite (idx : BitVec 5) (wdata : Word) (s : State) : Host.Outcome State Fault Refusal :=
  if idx = 0 then runCommandWord wdata s else .next (writeSlot s idx wdata)

/-- HOST_READ: returns the slot's value, with no side effect (spec/20_memory.md R52, R53, R57). -/
def execHostRead (idx : BitVec 5) (s : State) : Host.Outcome State Fault Refusal :=
  .next (returnData (readSlot s idx) s)

end Sys2Proof.Machine
end

