-- ==== Sys2Proof/Machine/Dispatch.lean ====
section
/-! DEFINITION. The dispatch: one arm per instruction, each a direct call of its meaning. -/

namespace Sys2Proof.Machine

def exec (i : Instr) (s : State) : Host.Outcome State Fault Refusal :=
  match i with
  | .setKey klen mode dir => Sys2Proof.Machine.execSetKey klen mode dir s
  | .setIv => Sys2Proof.Machine.execSetIv s
  | .encryptBlock => Sys2Proof.Machine.execEncryptBlock s
  | .decryptBlock => Sys2Proof.Machine.execDecryptBlock s
  | .processBlock => Sys2Proof.Machine.execProcessBlock s
  | .zeroize => Sys2Proof.Machine.execZeroize s
  | .hostWrite idx wdata => Sys2Proof.Machine.execHostWrite idx wdata s
  | .hostRead idx => Sys2Proof.Machine.execHostRead idx s

end Sys2Proof.Machine
end

