-- ==== Sys2Proof/Machine/Step.lean ====
section
/-! DEFINITION. One step of the block: it takes the host's next input and completes it (spec/20_memory.md R57,
spec/70_reset_and_hazards.md R249); with nothing presented it holds its state (spec/60_exceptions.md R222). -/

namespace Sys2Proof.Machine

/-- One step: the oldest input the host has issued. -/
def step (s : State) : Host.Outcome State Fault Refusal :=
  match takeInput s with
  | .nothing => .next s
  | .reset t => .next (applyReset t)
  | .transaction t s' => exec (decodeTransaction t) s'
  | .malformed => .refused .transactionForm

/-- The state with an instruction presented at the port as the next input (log entry 1). -/
def State.withFetchWord (s : State) (nbits w : Nat) : State := presentBits s nbits w

end Sys2Proof.Machine
end

