-- ==== Sys2Proof/Machine/HostProgram.lean ====
section
/-! DEFINITION. The pseudo-instructions of the spec's notation, each the machine operations it expands to, and a program as
what the host issues (spec/30_encoding.md R80). -/

namespace Sys2Proof.Machine

/-- `WR` of words to consecutive slots from `first`, in order. -/
def writeGroup (first : Nat) (ws : List Word) : List Instr :=
  ws.zipIdx.map fun p => .hostWrite (BitVec.ofNat 5 (first + p.2)) p.1

/-- `RD` of n consecutive slots from `first`, in order. -/
def readGroup (first n : Nat) : List Instr :=
  (List.range n).map fun k => .hostRead (BitVec.ofNat 5 (first + k))

/-- `LOADKEY`: WR KEY0, w0 and on (spec/30_encoding.md R80). -/
def loadKey (secret : List Byte) : List Instr := writeGroup 4 (bytesToWords secret)

/-- `LOADIV`: WR IV0, w0 to WR IV3, w3 (spec/30_encoding.md R80). -/
def loadIv (iv : List Byte) : List Instr := writeGroup 12 (bytesToWords iv)

/-- `LOADBLK`: WR DIN0, w0 to WR DIN3, w3 (spec/30_encoding.md R80). -/
def loadBlk (block : List Byte) : List Instr := writeGroup 16 (bytesToWords block)

/-- `RDBLK`: RD DOUT0 to RD DOUT3 (spec/30_encoding.md R80). -/
def rdBlk : List Instr := readGroup 20 4

/-- `RDCHAIN`: RD CHAIN0 to RD CHAIN3 (spec/30_encoding.md R80). -/
def rdChain : List Instr := readGroup 24 4

/-- What the host issues for a program: one transaction per machine operation, in order (spec/30_encoding.md R80). -/
def programInputs (program : List Instr) : List HostInput := program.map fun i => .transaction (encode i)

end Sys2Proof.Machine
end

