-- ==== Sys2Proof/Machine/Instances.lean ====
section
/-! DEFINITION. Several instances of the block, each with its own window and its own copy of every register
(spec/60_exceptions.md R221). -/

namespace Sys2Proof.Machine

/-- Instance k takes its next input; the others are as they were. An index past the last instance addresses nothing. -/
def stepAt (k : Nat) (blocks : List State) : Host.Outcome (List State) Fault Refusal :=
  match blocks[k]? with
  | none => .next blocks
  | some s =>
    match step s with
    | .next t => .next (blocks.set k t)
    | .fault r => .fault r
    | .refused r => .refused r

end Sys2Proof.Machine
end

