-- ==== Sys2Proof/Safety.lean ====
section
/-! DEFINITION. The terms claims are stated in: the schedules of a secret, the invariant of every reachable state
(spec/10_state.md R41, R42), the phases of the mode engine (spec/10_state.md R43), which instruction runs which command, a
stream of blocks (spec/44_mode_engine.md R182), and the counter as a number (spec/44_mode_engine.md R177). -/

namespace Sys2Proof.Machine

/-- NR and both schedules are those of a secret of a key length (spec/10_state.md R41). -/
def HoldsSchedulesOf (k : KeyLen) (secret : KeyRegs) (s : State) : Prop :=
  s.nr = BitVec.ofNat 5 (rounds k) ∧ s.encRk = encSchedule k secret ∧ s.decRk = decSchedule k secret

/-- No schedule: as after reset or ZEROIZE. -/
def NoSchedules (s : State) : Prop :=
  s.nr = 0 ∧ s.encRk = Schedule.zero ∧ s.decRk = Schedule.zero

/-- The invariant: the schedules are none or those of one secret of the length CFG_KLEN says, and KEY_VALID stands only with
the latter (spec/10_state.md R41, R42; spec/41_key_schedule.md R136, R137). That CFG_KLEN, CFG_MODE and ERR hold no other
code is their types' (log entry 8). -/
def Inv (s : State) : Prop :=
  (NoSchedules s ∧ s.keyValid = false) ∨ ∃ secret : KeyRegs, HoldsSchedulesOf s.cfgKlen secret s

/-- The phases of the mode engine (spec/10_state.md R43). -/
inductive Phase where
  | unkeyed
  | keyed
  | streaming
  deriving DecidableEq, Repr

/-- The phase of a state (spec/10_state.md R43). -/
def phase (s : State) : Phase :=
  if s.keyValid then (if s.ivValid then .streaming else .keyed) else .unkeyed

/-- The instruction is the command c, or a HOST_WRITE of c's word to CMD. -/
def RunsCommand (i c : Instr) : Prop :=
  (commandWord c).isSome ∧ (i = c ∨ ∃ cw, commandWord c = some cw ∧ i = .hostWrite 0 cw)

/-- PROCESS_BLOCK over a stream: each block written to DIN in order, and the blocks DOUT gave (spec/44_mode_engine.md R182). -/
def stream (order : CounterOrder) : State → List Block → List Block × State
  | s, [] => ([], s)
  | s, x :: xs =>
    let t := processBlock order { s with din := x }
    let rest := stream order t xs
    (t.dout :: rest.1, rest.2)

/-- V of BYTE_BE: the sum of ch[n]·256^(15-n) (spec/44_mode_engine.md R177). -/
def counterByteBE (b : Block) : Nat := ((List.range 16).map fun n => (b.byte n).toNat * 256 ^ (15 - n)).sum

/-- V of WORD_BE: c[0]·2^96 + c[1]·2^64 + c[2]·2^32 + c[3] (spec/44_mode_engine.md R177). -/
def counterWordBE (b : Block) : Nat :=
  b.w0.toNat * 2 ^ 96 + b.w1.toNat * 2 ^ 64 + b.w2.toNat * 2 ^ 32 + b.w3.toNat

end Sys2Proof.Machine
end

