-- ==== Sys2Proof/Certificates/Slice0/Obligations.lean ====
section
/-! DEFINITION. The statements for the provers, in the order of the spec's files: encoding and decoding, the primitives, the
key schedule, the two transforms, the commands, the mode engine, erasure, errors, the host port, the invariant, reset. A
command's statement gives its whole next state, so it is its completion and its frame at once. -/

open Sys2Proof Sys2Proof.Machine

/-! ### Encoding -/

/-- Words written out from spec/30_encoding.md R80 and spec/95_test_vectors.md section 10 decode to what they stand for. -/
def Obligations.WrittenOutWordsDecode : Prop :=
  decodeTransaction 0x2000000001 = .setKey 0 0 .encrypt
  ∧ decodeTransaction 0x2000001521 = .setKey 2 5 .decrypt
  ∧ decodeTransaction 0x2000000002 = .setIv
  ∧ decodeTransaction 0x2000000003 = .encryptBlock
  ∧ decodeTransaction 0x2000000004 = .decryptBlock
  ∧ decodeTransaction 0x2000000005 = .processBlock
  ∧ decodeTransaction 0x2000000006 = .zeroize
  ∧ decodeTransaction 0x2403020100 = .hostWrite 4 0x03020100
  ∧ decodeTransaction 0x1400000000 = .hostRead 20

/-- Decoding gives back every well-formed instruction, from its transaction and, for a command, from its 32-bit word. -/
def Obligations.DecodeOfEncodeIsTheInstruction : Prop :=
  (∀ i : Instr, wellFormed i = true → decodeTransaction (encode i) = i)
  ∧ ∀ (i : Instr) (cw : Word), commandWord i = some cw → decodeTableWord 32 cw.toNat = some i

/-- Encoding gives back every transaction, but for the `wdata` that a read ignores; and decoding gives only well-formed
instructions. -/
def Obligations.EncodeOfDecodeIsTheTransaction : Prop :=
  ∀ t : Transaction, wellFormed (decodeTransaction t) = true
    ∧ encode (decodeTransaction t) = if t.getLsbD 37 then t else t &&& 0x1f00000000

/-- R76: which words are illegal, by the fields of the word as numbers; each is refused with ILLEGAL_CMD, and every other word
is exactly one of the six commands. -/
def Obligations.IllegalWordsAreTheReservedOnes : Prop :=
  ∀ cw : Word,
    let op := cw.toNat % 16
    let illegal := (op = 0 ∨ 7 ≤ op)
      ∨ (op = 1 ∧ (cw.toNat / 64 % 4 ≠ 0 ∨ cw.toNat / 2048 % 2 ≠ 0 ∨ cw.toNat / 8192 ≠ 0))
      ∨ (2 ≤ op ∧ op ≤ 6 ∧ cw.toNat / 16 ≠ 0)
    (illegal → decodeCommand cw = .error .illegalCommand
      ∧ ∀ s : State, exec (.hostWrite 0 cw) s = .next { s with err := .illegalCmd, anyErr := true })
    ∧ (¬ illegal → ∃ i, decodeCommand cw = .ok i ∧ commandWord i = some cw ∧ ∀ j, commandWord j = some cw → j = i)

/-- R77: what a write to CMD does, for every word: the reserved bits first, then the command that OP selects with the fields
of the word. -/
def Obligations.CommandWriteRunsTheDecodedCommand : Prop :=
  ∀ (cw : Word) (s : State),
    exec (.hostWrite 0 cw) s =
      let op := cw.toNat % 16
      if op = 1 then
        if cw.toNat / 64 % 4 ≠ 0 ∨ cw.toNat / 2048 % 2 ≠ 0 ∨ cw.toNat / 8192 ≠ 0 then
          .next { s with err := .illegalCmd, anyErr := true }
        else
          exec (.setKey (BitVec.ofNat 2 (cw.toNat / 16)) (BitVec.ofNat 3 (cw.toNat / 256))
            (if cw.toNat / 4096 % 2 = 0 then .encrypt else .decrypt)) s
      else if 2 ≤ op ∧ op ≤ 6 then
        if cw.toNat / 16 ≠ 0 then .next { s with err := .illegalCmd, anyErr := true }
        else if op = 2 then exec .setIv s
        else if op = 3 then exec .encryptBlock s
        else if op = 4 then exec .decryptBlock s
        else if op = 5 then exec .processBlock s
        else exec .zeroize s
      else .next { s with err := .illegalCmd, anyErr := true }

/-! ### One step -/

/-- A transaction the host has issued is decoded and run, in one step, on the state with it taken; and an instruction
presented by its bits is the next one run. -/
def Obligations.StepRunsTheDecodedInstruction : Prop :=
  (∀ (s : State) (t : Transaction) (rest : List HostInput), s.pending = .transaction t :: rest →
    step s = exec (decodeTransaction t) { s with pending := rest })
  ∧ ∀ (s : State) (nbits w : Nat) (t : Transaction), transactionOfBits nbits w = some t →
    step (s.withFetchWord nbits w) = exec (decodeTransaction t) s

/-- With nothing presented the block holds its state (R222); a reset presented next is one step that leaves every register as
after reset (R240, R241), the host's own queue and observation going on (log entry 11). -/
def Obligations.StepIdlesAndResets : Prop :=
  (∀ s : State, s.pending = [] → step s = .next s)
  ∧ ∀ (s : State) (rest : List HostInput), s.pending = .rst :: rest →
    step s = .next { State.reset with pending := rest, observed := s.observed }

/-- R51, R56 in the model's rendering (log entry 4): an access of four bytes at a slot's offset is that slot's transaction; an
access of any other form is refused by name. -/
def Obligations.OtherAccessFormsAreRefused : Prop :=
  ∀ (s : State) (a : ByteAccess) (rest : List HostInput), s.pending = .byteAccess a :: rest →
    step s =
      if a.bytes = 4 ∧ a.offset % 4 = 0 ∧ a.offset < 128 then
        exec (decodeTransaction (transactionWord a.we (BitVec.ofNat 5 (a.offset / 4)) a.wdata)) { s with pending := rest }
      else .refused .transactionForm

/-! ### Packing and primitives -/

/-- R54: byte n of a group is byte n mod 4 of word n div 4, word k is its four bytes, and the two maps undo each other; the
same packing for blocks, for the secret in KEY as the expansion takes it, and for the schedules as the round keys take them. -/
def Obligations.PackingIsLittleEndian : Prop :=
  (∀ (ws : List Word) (n : Nat), n < 4 * ws.length →
    (wordsToBytes ws)[n]? = some ((ws.getD (n / 4) 0).extractLsb' (8 * (n % 4)) 8))
  ∧ (∀ (bs : List Byte) (k : Nat), 4 * k + 3 < bs.length →
    (bytesToWords bs)[k]?.map BitVec.toNat = some ((bs.getD (4 * k) 0).toNat + (bs.getD (4 * k + 1) 0).toNat * 2 ^ 8
      + (bs.getD (4 * k + 2) 0).toNat * 2 ^ 16 + (bs.getD (4 * k + 3) 0).toNat * 2 ^ 24))
  ∧ (∀ ws : List Word, bytesToWords (wordsToBytes ws) = ws)
  ∧ (∀ bs : List Byte, bs.length % 4 = 0 → wordsToBytes (bytesToWords bs) = bs)
  ∧ (∀ (b : Block) (n : Nat), n < 16 →
    b.byte n = (b.word (n / 4)).extractLsb' (8 * (n % 4)) 8 ∧ (wordsToBytes b.words)[n]? = some (b.byte n))
  ∧ (∀ (f : Nat → Byte) (n : Nat), n < 16 → (Block.ofBytes f).byte n = f n)
  ∧ (∀ f : Nat → Byte, (Block.ofBytes f).words = bytesToWords ((List.range 16).map f))
  ∧ (∀ (key : KeyRegs) (n : Nat), n < 32 →
    (wordsToBytes key.toList)[n]? = some ((key[n / 4]?.getD 0).extractLsb' (8 * (n % 4)) 8))
  ∧ (∀ (k : KeyLen) (key : KeyRegs) (i : Nat), i < keyWords k →
    let secret := wordsToBytes key.toList
    (expandKey k key)[i]? = some (packWord (secret.getD (4 * i) 0) (secret.getD (4 * i + 1) 0)
      (secret.getD (4 * i + 2) 0) (secret.getD (4 * i + 3) 0)))
  ∧ ∀ (rk : Schedule) (r n : Nat), r < 15 → n < 16 →
    (wordsToBytes rk.toList)[16 * r + n]? = some ((roundKey rk r).byte n)
    ∧ (roundKey rk r).byte n = (scheduleWord rk (4 * r + n / 4)).extractLsb' (8 * (n % 4)) 8

/-- R101: xtime, the product's laws, and the spec's examples. -/
def Obligations.FieldProductLaws : Prop :=
  (∀ a : Byte, xtime a = (a <<< 1) ^^^ (if a.toNat / 128 = 1 then 0x1b else 0x00))
  ∧ (∀ a b : Byte, gfMul a b = (List.range 8).foldr (fun i acc => (if b.getLsbD i then xtime^[i] a else 0) ^^^ acc) 0)
  ∧ (∀ a b : Byte, gfMul a b = gfMul b a)
  ∧ (∀ a b c : Byte, gfMul (gfMul a b) c = gfMul a (gfMul b c))
  ∧ (∀ a b c : Byte, gfMul a (b ^^^ c) = gfMul a b ^^^ gfMul a c)
  ∧ (∀ a : Byte, gfMul 0x01 a = a)
  ∧ xtime 0x57 = 0xae ∧ xtime 0x80 = 0x1b ∧ gfMul 0x57 0x83 = 0xc1 ∧ gfMul 0x57 0x13 = 0xfe

/-- R102: inv(a) is the byte whose product with a is 1, inv(0) = 0, and inv(a) = a^254. -/
def Obligations.FieldInverse : Prop :=
  (∀ a : Byte, a ≠ 0 → gfMul a (gfInv a) = 0x01 ∧ ∀ b : Byte, gfMul a b = 0x01 → b = gfInv a)
  ∧ gfInv 0x00 = 0x00
  ∧ (∀ a : Byte, gfInv a = (gfMul a)^[254] 0x01)
  ∧ gfInv 0x53 = 0xca

/-- R103: the S-box table is the affine map of the inverse, bit by bit. -/
def Obligations.SboxTableIsAffineOfInverse : Prop :=
  (∀ a : Byte, sbox a = affine (gfInv a))
  ∧ ∀ (b : Byte) (i : Nat), i < 8 → (affine b).getLsbD i =
      (b.getLsbD i ^^ b.getLsbD ((i + 4) % 8) ^^ b.getLsbD ((i + 5) % 8) ^^ b.getLsbD ((i + 6) % 8)
        ^^ b.getLsbD ((i + 7) % 8) ^^ (0x63#8).getLsbD i)

/-- R104: the inverse S-box is the inverse permutation. -/
def Obligations.InverseSboxInverts : Prop :=
  ∀ a : Byte, invSbox (sbox a) = a ∧ sbox (invSbox a) = a

/-- R106, R109, R110: the bytewise steps, and that AddRoundKey undoes itself. -/
def Obligations.BytewiseSteps : Prop :=
  (∀ (s : Block) (n : Nat), n < 16 →
    (subBytes s).byte n = sbox (s.byte n) ∧ (invSubBytes s).byte n = invSbox (s.byte n))
  ∧ (∀ (s k : Block) (n : Nat), n < 16 → (addRoundKey s k).byte n = s.byte n ^^^ k.byte n)
  ∧ ∀ s k : Block, addRoundKey (addRoundKey s k) k = s

/-- R107, R111: the two row shifts by row and column, the spec's examples, and that one undoes the other. -/
def Obligations.RowShifts : Prop :=
  (∀ (s : Block) (r c : Nat), r < 4 → c < 4 →
    (shiftRows s).byte (r + 4 * c) = s.byte (r + 4 * ((c + r) % 4))
    ∧ (invShiftRows s).byte (r + 4 * c) = s.byte (r + 4 * ((c + 4 - r) % 4)))
  ∧ shiftRows ⟨0x03020100, 0x07060504, 0x0b0a0908, 0x0f0e0d0c⟩ = ⟨0x0f0a0500, 0x030e0904, 0x07020d08, 0x0b06010c⟩
  ∧ invShiftRows ⟨0x03020100, 0x07060504, 0x0b0a0908, 0x0f0e0d0c⟩ = ⟨0x070a0d00, 0x0b0e0104, 0x0f020508, 0x0306090c⟩
  ∧ ∀ s : Block, invShiftRows (shiftRows s) = s

/-- R108, R112: both column mixes by their rows (coefficient first, as the spec writes them), the spec's examples, that one
undoes the other, and linearity. -/
def Obligations.ColumnMixes : Prop :=
  (∀ (s : Block) (c : Nat), c < 4 →
    let a0 := s.byte (4 * c)
    let a1 := s.byte (4 * c + 1)
    let a2 := s.byte (4 * c + 2)
    let a3 := s.byte (4 * c + 3)
    (mixColumns s).byte (4 * c) = gfMul 0x02 a0 ^^^ gfMul 0x03 a1 ^^^ a2 ^^^ a3
    ∧ (mixColumns s).byte (4 * c + 1) = a0 ^^^ gfMul 0x02 a1 ^^^ gfMul 0x03 a2 ^^^ a3
    ∧ (mixColumns s).byte (4 * c + 2) = a0 ^^^ a1 ^^^ gfMul 0x02 a2 ^^^ gfMul 0x03 a3
    ∧ (mixColumns s).byte (4 * c + 3) = gfMul 0x03 a0 ^^^ a1 ^^^ a2 ^^^ gfMul 0x02 a3
    ∧ (invMixColumns s).byte (4 * c) = gfMul 0x0e a0 ^^^ gfMul 0x0b a1 ^^^ gfMul 0x0d a2 ^^^ gfMul 0x09 a3
    ∧ (invMixColumns s).byte (4 * c + 1) = gfMul 0x09 a0 ^^^ gfMul 0x0e a1 ^^^ gfMul 0x0b a2 ^^^ gfMul 0x0d a3
    ∧ (invMixColumns s).byte (4 * c + 2) = gfMul 0x0d a0 ^^^ gfMul 0x09 a1 ^^^ gfMul 0x0e a2 ^^^ gfMul 0x0b a3
    ∧ (invMixColumns s).byte (4 * c + 3) = gfMul 0x0b a0 ^^^ gfMul 0x0d a1 ^^^ gfMul 0x09 a2 ^^^ gfMul 0x0e a3)
  ∧ mixColumn 0x455313db = 0xbca14d8e ∧ invMixColumn 0xbca14d8e = 0x455313db
  ∧ (∀ s : Block, invMixColumns (mixColumns s) = s)
  ∧ ∀ x y : Block, invMixColumns (x.xor y) = (invMixColumns x).xor (invMixColumns y)

/-! ### The key schedule -/

/-- R115, R116: RotWord and SubWord on the bytes of a word, RotWord on the stored word, and the round constants. -/
def Obligations.ExpansionSteps : Prop :=
  (∀ a0 a1 a2 a3 : Byte, rotWord (packWord a0 a1 a2 a3) = packWord a1 a2 a3 a0
    ∧ subWord (packWord a0 a1 a2 a3) = packWord (sbox a0) (sbox a1) (sbox a2) (sbox a3))
  ∧ (∀ w : Word, rotWord w = w.rotateRight 8)
  ∧ (∀ j : Nat, rcon j = packWord (roundConstant j) 0x00 0x00 0x00)
  ∧ roundConstant 1 = 0x01
  ∧ (∀ j : Nat, 2 ≤ j → roundConstant j = xtime (roundConstant (j - 1)))
  ∧ (List.range 10).map (fun j => roundConstant (j + 1))
      = [0x01, 0x02, 0x04, 0x08, 0x10, 0x20, 0x40, 0x80, 0x1b, 0x36]

/-- R131: the expansion has 4(N_r+1) words, the first N_k are the secret's, each later word is the word N_k back with the
term of the word before it, and ENC_RK holds them, in order, with zeros after them. -/
def Obligations.KeyExpansionRecurrence : Prop :=
  ∀ (k : KeyLen) (key : KeyRegs),
    let w := expandKey k key
    let nk := 4 + 2 * k.code.toNat
    let nr := 10 + 2 * k.code.toNat
    w.length = 4 * (nr + 1)
    ∧ (∀ i, i < nk → w[i]? = key[i]?)
    ∧ (∀ i, nk ≤ i → i < 4 * (nr + 1) →
      let t := w.getD (i - 1) 0
      w[i]? = some (w.getD (i - nk) 0 ^^^
        if i % nk = 0 then subWord (rotWord t) ^^^ rcon (i / nk)
        else if nk = 8 ∧ i % nk = 4 then subWord t
        else t))
    ∧ ∀ i, i < 60 → scheduleWord (encSchedule k key) i = if i < 4 * (nr + 1) then w.getD i 0 else 0

/-- R132: decryption round key r is encryption round key N_r - r, through InvMixColumns but for the first and the last. -/
def Obligations.DecryptionScheduleReversesAndMixes : Prop :=
  ∀ (k : KeyLen) (key : KeyRegs) (r : Nat), r ≤ rounds k →
    roundKey (decSchedule k key) r =
      if 1 ≤ r ∧ r ≤ rounds k - 1 then invMixColumns (roundKey (encSchedule k key) (rounds k - r))
      else roundKey (encSchedule k key) (rounds k - r)

/-- R133: after a successful SET_KEY the words past 4(N_r+1) are zero in both schedules, and no command reads them: neither
transform does, and in states that differ only there a block command gives the same next state but for those words, and every
instruction the same next state, with those words as they were or overwritten. -/
def Obligations.UnusedScheduleWordsAreZeroAndUnread : Prop :=
  (∀ (k : KeyLen) (m : Mode) (dir : Dir) (s : State), ∃ t, exec (.setKey k.code m.code dir) s = .next t
    ∧ ∀ i, 4 * (rounds k + 1) ≤ i → i < 60 → scheduleWord t.encRk i = 0 ∧ scheduleWord t.decRk i = 0)
  ∧ (∀ (rk rk' : Schedule) (nr : Nat), (∀ i, i < 4 * (nr + 1) → scheduleWord rk i = scheduleWord rk' i) →
      ∀ b : Block, encryptBlock rk nr b = encryptBlock rk' nr b ∧ decryptBlock rk nr b = decryptBlock rk' nr b)
  ∧ ∀ (s : State) (erk drk : Schedule),
    (∀ i, i < 4 * (s.nr.toNat + 1) →
      scheduleWord s.encRk i = scheduleWord erk i ∧ scheduleWord s.decRk i = scheduleWord drk i) →
    (∀ i : Instr, (i = .encryptBlock ∨ i = .decryptBlock ∨ i = .processBlock) →
      ∃ t, exec i s = .next t
        ∧ exec i { s with encRk := erk, decRk := drk } = .next { t with encRk := erk, decRk := drk })
    ∧ ∀ i : Instr, ∃ t, exec i s = .next t
      ∧ (exec i { s with encRk := erk, decRk := drk } = .next t
        ∨ exec i { s with encRk := erk, decRk := drk } = .next { t with encRk := erk, decRk := drk })

/-- R130, R134, R135, R136: the whole of SET_KEY in every state: refused for the length, refused for the mode, or the
schedules of the secret that KEY held with the configuration latched; KEY is cleared in all three, CHAIN kept. -/
def Obligations.SetKeyCommand : Prop :=
  (∀ (mode : BitVec 3) (dir : Dir) (s : State), exec (.setKey 3 mode dir) s =
    .next { s with
      key := KeyRegs.zero, keyValid := false, ivValid := false, err := .badKeyLength, anyErr := true })
  ∧ (∀ (klen : BitVec 2) (mode : BitVec 3) (dir : Dir) (s : State), klen ≠ 3 → 5 < mode.toNat →
      exec (.setKey klen mode dir) s =
        .next { s with key := KeyRegs.zero, keyValid := false, ivValid := false, err := .badMode, anyErr := true })
  ∧ ∀ (k : KeyLen) (m : Mode) (dir : Dir) (s : State), exec (.setKey k.code m.code dir) s =
      .next { s with
        key := KeyRegs.zero, encRk := encSchedule k s.key, decRk := decSchedule k s.key
        nr := BitVec.ofNat 5 (10 + 2 * k.code.toNat), cfgKlen := k, cfgMode := m, cfgDir := dir
        keyValid := true, ivValid := false, err := .ok }

/-- R137: only ZEROIZE and a successful SET_KEY (given as commands or as writes of their words to CMD) change ENC_RK, DEC_RK
or NR; and of the steps, only one whose input is a reset, or a transaction that decodes to one of the two. -/
def Obligations.SchedulesChangeOnlyBySetKeyAndZeroize : Prop :=
  (∀ (i : Instr) (s t : State), exec i s = .next t →
    ¬ (t.encRk = s.encRk ∧ t.decRk = s.decRk ∧ t.nr = s.nr) →
    RunsCommand i .zeroize ∨ ∃ (k : KeyLen) (m : Mode) (dir : Dir), RunsCommand i (.setKey k.code m.code dir))
  ∧ ∀ s t : State, step s = .next t → ¬ (t.encRk = s.encRk ∧ t.decRk = s.decRk ∧ t.nr = s.nr) →
    (∃ rest, s.pending = .rst :: rest)
    ∨ ∃ (w : Transaction) (rest : List HostInput), takeInput s = .transaction w { s with pending := rest }
      ∧ exec (decodeTransaction w) { s with pending := rest } = .next t
      ∧ (decodeTransaction w = .zeroize
        ∨ ∃ (k : KeyLen) (m : Mode) (dir : Dir), decodeTransaction w = .setKey k.code m.code dir)

/-! ### The two transforms -/

/-- R150, R160: both transforms as the loops the spec writes, each with its schedule's round keys in stored order, of which the
decryption schedule's first is the encryption schedule's last. -/
def Obligations.TransformsAreTheRounds : Prop :=
  (∀ (rk : Schedule) (nr : Nat) (input : Block),
    encryptBlock rk nr input =
      addRoundKey (shiftRows (subBytes
        ((List.range' 1 (nr - 1)).foldl
          (fun s r => addRoundKey (mixColumns (shiftRows (subBytes s))) (roundKey rk r))
          (addRoundKey input (roundKey rk 0))))) (roundKey rk nr)
    ∧ decryptBlock rk nr input =
      addRoundKey (invSubBytes (invShiftRows
        ((List.range' 1 (nr - 1)).foldl
          (fun s r => addRoundKey (invMixColumns (invSubBytes (invShiftRows s))) (roundKey rk r))
          (addRoundKey input (roundKey rk 0))))) (roundKey rk nr))
  ∧ ∀ (k : KeyLen) (key : KeyRegs), roundKey (decSchedule k key) 0 = roundKey (encSchedule k key) (rounds k)

/-- R152: E is a bijection on blocks for every schedule and round count, and maps the known-answer plaintext to its
ciphertext under the known-answer key. -/
def Obligations.EncryptIsBijective : Prop :=
  (∀ (rk : Schedule) (nr : Nat), Function.Bijective (encryptBlock rk nr))
  ∧ encryptBlock (encSchedule .aes128 #v[0x03020100, 0x07060504, 0x0b0a0908, 0x0f0e0d0c, 0, 0, 0, 0]) 10
      ⟨0x33221100, 0x77665544, 0xbbaa9988, 0xffeeddcc⟩ = ⟨0xd8e0c469, 0x30047b6a, 0x80b7cdd8, 0x5ac5b470⟩

/-- The equivalence that spec/43_block_decrypt.md section 1 derives: D under the pre-mixed decryption schedule is the
straightforward inverse cipher under the encryption schedule. -/
def Obligations.InverseCiphersAgree : Prop :=
  ∀ (k : KeyLen) (key : KeyRegs) (b : Block),
    decryptBlock (decSchedule k key) (rounds k) b = straightInverse (encSchedule k key) (rounds k) b

/-- R163: under the two schedules one SET_KEY built, D(E(B)) = B and E(D(B)) = B for every secret and block. -/
def Obligations.DecryptInvertsEncrypt : Prop :=
  ∀ (k : KeyLen) (key : KeyRegs) (b : Block),
    decryptBlock (decSchedule k key) (rounds k) (encryptBlock (encSchedule k key) (rounds k) b) = b
    ∧ encryptBlock (encSchedule k key) (rounds k) (decryptBlock (decSchedule k key) (rounds k) b) = b

/-- The commands' form of it: in a keyed state that holds the schedules of a secret, DECRYPT_BLOCK of what ENCRYPT_BLOCK gave
returns DIN, and the other way round. -/
def Obligations.BlockCommandsInvertEachOther : Prop :=
  ∀ (k : KeyLen) (secret : KeyRegs) (s : State), s.keyValid = true → HoldsSchedulesOf k secret s →
    (∃ t u, exec .encryptBlock s = .next t ∧ exec .decryptBlock { t with din := t.dout } = .next u ∧ u.dout = s.din)
    ∧ ∃ t u, exec .decryptBlock s = .next t ∧ exec .encryptBlock { t with din := t.dout } = .next u ∧ u.dout = s.din

/-! ### The block commands -/

/-- R151: ENCRYPT_BLOCK in every state. -/
def Obligations.EncryptBlockCommand : Prop :=
  (∀ s : State, s.keyValid = true →
    exec .encryptBlock s = .next { s with dout := encryptBlock s.encRk s.nr.toNat s.din, err := .ok })
  ∧ ∀ s : State, s.keyValid = false → exec .encryptBlock s = .next { s with err := .noKey, anyErr := true }

/-- R162: DECRYPT_BLOCK in every state. -/
def Obligations.DecryptBlockCommand : Prop :=
  (∀ s : State, s.keyValid = true →
    exec .decryptBlock s = .next { s with dout := decryptBlock s.decRk s.nr.toNat s.din, err := .ok })
  ∧ ∀ s : State, s.keyValid = false → exec .decryptBlock s = .next { s with err := .noKey, anyErr := true }

/-! ### The mode engine -/

/-- R178: SET_IV in every state; it has no precondition and keeps IV. -/
def Obligations.SetIvCommand : Prop :=
  ∀ s : State, exec .setIv s = .next { s with chain := s.iv, ivValid := true, err := .ok }

/-- R170: PROCESS_BLOCK in every state: NO_KEY first, then NO_IV outside ECB, else one mode step of DIN and CHAIN as they were. -/
def Obligations.ProcessBlockCommand : Prop :=
  (∀ s : State, s.keyValid = false → exec .processBlock s = .next { s with err := .noKey, anyErr := true })
  ∧ (∀ s : State, s.keyValid = true → s.cfgMode ≠ .ecb → s.ivValid = false →
      exec .processBlock s = .next { s with err := .noIv, anyErr := true })
  ∧ ∀ s : State, s.keyValid = true → (s.cfgMode = .ecb ∨ s.ivValid = true) →
      exec .processBlock s = .next
        (let e := encryptBlock s.encRk s.nr.toNat
         let d := decryptBlock s.decRk s.nr.toNat
         let y := (modeStep .byteBE e d s.cfgMode s.cfgDir s.din s.chain).1
         let ch := (modeStep .byteBE e d s.cfgMode s.cfgDir s.din s.chain).2
         { s with dout := y, chain := ch, err := .ok })

/-- R171: an ECB step, with or without an IV. -/
def Obligations.EcbStep : Prop :=
  ∀ s : State, s.keyValid = true → s.cfgMode = .ecb → exec .processBlock s = .next
    { s with
      dout := match s.cfgDir with
        | .encrypt => encryptBlock s.encRk s.nr.toNat s.din
        | .decrypt => decryptBlock s.decRk s.nr.toNat s.din
      err := .ok }

/-- R172, R173: a CBC and a PCBC step; for the first block after SET_IV the chained value is the IV itself, C_0 ⊕ P_0 with
P_0 = 0. -/
def Obligations.CbcAndPcbcSteps : Prop :=
  (∀ s : State, s.keyValid = true → s.ivValid = true → s.cfgMode = .cbc → exec .processBlock s = .next
    (match s.cfgDir with
      | .encrypt =>
        let y := encryptBlock s.encRk s.nr.toNat (s.din.xor s.chain)
        { s with dout := y, chain := y, err := .ok }
      | .decrypt =>
        { s with dout := (decryptBlock s.decRk s.nr.toNat s.din).xor s.chain, chain := s.din, err := .ok }))
  ∧ (∀ s : State, s.keyValid = true → s.ivValid = true → s.cfgMode = .pcbc → exec .processBlock s = .next
    (match s.cfgDir with
      | .encrypt =>
        let y := encryptBlock s.encRk s.nr.toNat (s.din.xor s.chain)
        { s with dout := y, chain := y.xor s.din, err := .ok }
      | .decrypt =>
        let y := (decryptBlock s.decRk s.nr.toNat s.din).xor s.chain
        { s with dout := y, chain := s.din.xor y, err := .ok }))
  ∧ ∀ s : State, s.keyValid = true → (s.cfgMode = .cbc ∨ s.cfgMode = .pcbc) →
    ∃ t u, exec .setIv s = .next t ∧ exec .processBlock t = .next u
      ∧ u.dout = match s.cfgDir with
        | .encrypt => encryptBlock s.encRk s.nr.toNat (s.din.xor s.iv)
        | .decrypt => (decryptBlock s.decRk s.nr.toNat s.din).xor s.iv

/-- R174, R175: a CFB step, with whole-block feedback, and an OFB step; both use the forward transform in both directions. -/
def Obligations.CfbAndOfbSteps : Prop :=
  (∀ s : State, s.keyValid = true → s.ivValid = true → s.cfgMode = .cfb → exec .processBlock s = .next
    (let y := s.din.xor (encryptBlock s.encRk s.nr.toNat s.chain)
     match s.cfgDir with
      | .encrypt => { s with dout := y, chain := y, err := .ok }
      | .decrypt => { s with dout := y, chain := s.din, err := .ok }))
  ∧ ∀ s : State, s.keyValid = true → s.ivValid = true → s.cfgMode = .ofb → exec .processBlock s = .next
    (let o := encryptBlock s.encRk s.nr.toNat s.chain
     { s with dout := s.din.xor o, chain := o, err := .ok })

/-- R176: a CTR step, the same in both directions, the counter used and then incremented; the counter of the first block
after SET_IV is the IV itself. -/
def Obligations.CtrStep : Prop :=
  (∀ s : State, s.keyValid = true → s.ivValid = true → s.cfgMode = .ctr → exec .processBlock s = .next
    { s with
      dout := s.din.xor (encryptBlock s.encRk s.nr.toNat s.chain)
      chain := inc128 .byteBE s.chain
      err := .ok })
  ∧ ∀ s : State, s.keyValid = true → s.cfgMode = .ctr →
    ∃ t u, exec .setIv s = .next t ∧ exec .processBlock t = .next u
      ∧ u.dout = s.din.xor (encryptBlock s.encRk s.nr.toNat s.iv) ∧ u.chain = inc128 .byteBE s.iv

/-- R177: Inc128 under both orders, as arithmetic on the counter's number, byte by byte and word by word, with the spec's
examples; a CTR block's output does not depend on the order, only the next counter does; this hardware takes BYTE_BE. -/
def Obligations.CounterIncrement : Prop :=
  (∀ (b : Block) (n : Nat), n < 16 →
    ((inc128 .byteBE b).byte n).toNat = (counterByteBE b + 1) % 2 ^ 128 / 256 ^ (15 - n) % 256)
  ∧ (∀ (b : Block) (k : Nat), k < 4 →
      ((inc128 .wordBE b).word k).toNat = (counterWordBE b + 1) % 2 ^ 128 / 2 ^ (32 * (3 - k)) % 2 ^ 32)
  ∧ inc128 .byteBE ⟨0, 0, 0, 0⟩ = ⟨0, 0, 0, 0x01000000⟩ ∧ inc128 .wordBE ⟨0, 0, 0, 0⟩ = ⟨0, 0, 0, 0x00000001⟩
  ∧ inc128 .byteBE ⟨0xf3f2f1f0, 0xf7f6f5f4, 0xfbfaf9f8, 0xfffefdfc⟩ = ⟨0xf3f2f1f0, 0xf7f6f5f4, 0xfbfaf9f8, 0x00fffdfc⟩
  ∧ inc128 .wordBE ⟨0xf3f2f1f0, 0xf7f6f5f4, 0xfbfaf9f8, 0xfffefdfc⟩ = ⟨0xf3f2f1f0, 0xf7f6f5f4, 0xfbfaf9f8, 0xfffefdfd⟩
  ∧ (∀ order : CounterOrder, inc128 order ⟨0xffffffff, 0xffffffff, 0xffffffff, 0xffffffff⟩ = ⟨0, 0, 0, 0⟩)
  ∧ (∀ s : State, (processBlock .byteBE s).dout = (processBlock .wordBE s).dout)
  ∧ Config.ctrCounterOrder = .byteBE

/-- R179: in CFB, OFB and CTR the block is the input with E of the chained value whatever CFG_DIR says, and DEC_RK is not read. -/
def Obligations.FeedbackModesUseOnlyForward : Prop :=
  ∀ (s : State) (drk : Schedule), s.keyValid = true → s.ivValid = true →
    (s.cfgMode = .cfb ∨ s.cfgMode = .ofb ∨ s.cfgMode = .ctr) →
    ∃ t, exec .processBlock s = .next t
      ∧ t.dout = s.din.xor (encryptBlock s.encRk s.nr.toNat s.chain)
      ∧ exec .processBlock { s with decRk := drk } = .next { t with decRk := drk }

/-- What spec/44_mode_engine.md section 3 derives of a stream: under either counter order, in every mode (ECB with or without
an IV), a decrypting stream that starts from the same schedules, mode and chained value and is fed the encrypting stream's outputs gives back its inputs,
and both end with the same CHAIN (and so after every step, since the lists are arbitrary). -/
def Obligations.StreamRoundTrip : Prop :=
  ∀ (order : CounterOrder) (k : KeyLen) (secret : KeyRegs) (s t : State) (xs : List Block),
    HoldsSchedulesOf k secret s → HoldsSchedulesOf k secret t →
    s.keyValid = true → t.keyValid = true → (s.cfgMode = .ecb ∨ s.ivValid = true ∧ t.ivValid = true) →
    s.cfgDir = .encrypt → t.cfgDir = .decrypt → t.cfgMode = s.cfgMode → t.chain = s.chain →
    (stream order t (stream order s xs).1).1 = xs
    ∧ (stream order t (stream order s xs).1).2.chain = (stream order s xs).2.chain

/-- The CTR keystream as spec/44_mode_engine.md section 3 derives it: DOUT ⊕ DIN is E of the counter whatever DIN is, and the
counter goes up by one modulo 2^128. -/
def Obligations.CtrKeystream : Prop :=
  ∀ (s : State) (x : Block), s.keyValid = true → s.ivValid = true → s.cfgMode = .ctr →
    ∃ t, exec .processBlock { s with din := x } = .next t
      ∧ t.dout.xor x = encryptBlock s.encRk s.nr.toNat s.chain
      ∧ counterByteBE t.chain = (counterByteBE s.chain + 1) % 2 ^ 128

/-- IV sensitivity as spec/44_mode_engine.md section 3 derives it: in every chained mode two different chained values give
different first output blocks for the same input. -/
def Obligations.DifferentIvsGiveDifferentBlocks : Prop :=
  ∀ (s : State) (iv : Block), s.keyValid = true → s.ivValid = true → s.cfgMode ≠ .ecb → s.cfgDir = .encrypt →
    iv ≠ s.chain →
    ∃ t u, exec .processBlock s = .next t ∧ exec .processBlock { s with chain := iv } = .next u ∧ t.dout ≠ u.dout

/-- R248: PROCESS_BLOCK in ECB and the raw block commands neither read nor write CHAIN. -/
def Obligations.EcbAndRawCommandsIgnoreChain : Prop :=
  ∀ (i : Instr) (s : State) (ch : Block),
    (i = .encryptBlock ∨ i = .decryptBlock ∨ (i = .processBlock ∧ s.cfgMode = .ecb)) →
    ∃ t, exec i s = .next t ∧ t.chain = s.chain ∧ exec i { s with chain := ch } = .next { t with chain := ch }

/-- R250: after a successful SET_KEY with a chained mode PROCESS_BLOCK is refused with NO_IV, DOUT and CHAIN kept, and runs
again after SET_IV. -/
def Obligations.KeyChangeEndsTheStream : Prop :=
  ∀ (k : KeyLen) (m : Mode) (dir : Dir) (s : State), m ≠ .ecb →
    ∃ t u v w, exec (.setKey k.code m.code dir) s = .next t
      ∧ t.ivValid = false
      ∧ exec .processBlock t = .next u
      ∧ u = { t with err := .noIv, anyErr := true }
      ∧ exec .setIv u = .next v
      ∧ exec .processBlock v = .next w
      ∧ w.err = .ok

/-- Saving and resuming a stream as spec/70_reset_and_hazards.md section 2 derives it: the values that reads of CHAIN return in
one state, written to IV in another and loaded by SET_IV, make that state's CHAIN the first one's. -/
def Obligations.SavedChainIsRestored : Prop :=
  ∀ s t : State,
    ∃ t0 t1 t2 t3 u, exec (.hostWrite 12 (readSlot s 24)) t = .next t0
      ∧ exec (.hostWrite 13 (readSlot s 25)) t0 = .next t1
      ∧ exec (.hostWrite 14 (readSlot s 26)) t1 = .next t2
      ∧ exec (.hostWrite 15 (readSlot s 27)) t2 = .next t3
      ∧ exec .setIv t3 = .next u
      ∧ u.chain = s.chain ∧ u.ivValid = true

/-! ### Erasure -/

/-- R200: ZEROIZE in every state gives the reset state but for ANYERR (and the host's own queue and observation, which are no
registers); a second one changes nothing. -/
def Obligations.ZeroizeCommand : Prop :=
  ∀ s : State,
    exec .zeroize s = .next
      { key := Vector.replicate 8 0, iv := ⟨0, 0, 0, 0⟩, din := ⟨0, 0, 0, 0⟩, dout := ⟨0, 0, 0, 0⟩, chain := ⟨0, 0, 0, 0⟩
        encRk := Vector.replicate 60 0, decRk := Vector.replicate 60 0, nr := 0
        cfgKlen := .aes128, cfgMode := .ecb, cfgDir := .encrypt, keyValid := false, ivValid := false
        err := .ok, anyErr := s.anyErr, pending := s.pending, observed := s.observed }
    ∧ exec .zeroize { State.reset with anyErr := s.anyErr, pending := s.pending, observed := s.observed } =
        exec .zeroize s

/-! ### Errors -/

/-- R211: every write to CMD ends by writing STATUS, with success or with an error; KEY_VALID and IV_VALID change only by
SET_KEY, SET_IV and ZEROIZE. -/
def Obligations.EveryCommandEndsByWritingStatus : Prop :=
  ∀ (cw : Word) (s : State), ∃ t, exec (.hostWrite 0 cw) s = .next t
    ∧ ((t.err = .ok ∧ t.anyErr = s.anyErr) ∨ (t.err ≠ .ok ∧ t.anyErr = true))
    ∧ (cw.toNat % 16 ≠ 1 → cw.toNat % 16 ≠ 2 → cw.toNat % 16 ≠ 6 → t.keyValid = s.keyValid ∧ t.ivValid = s.ivValid)

/-- R212: a refused command changes STATUS only, but that a SET_KEY refused for its length or mode also clears KEY, KEY_VALID
and IV_VALID. -/
def Obligations.RefusedCommandsChangeOnlyStatus : Prop :=
  ∀ (cw : Word) (s t : State), exec (.hostWrite 0 cw) s = .next t → t.err ≠ .ok →
    if t.err = .badKeyLength ∨ t.err = .badMode then
      t = { s with key := KeyRegs.zero, keyValid := false, ivValid := false, err := t.err, anyErr := true }
    else t = { s with err := t.err, anyErr := true }

/-- R213: the one code reported, by the word's fields and the state: the first cause in the spec's order. -/
def Obligations.FirstCauseIsReported : Prop :=
  ∀ (cw : Word) (s t : State), exec (.hostWrite 0 cw) s = .next t →
    let op := cw.toNat % 16
    t.err =
      if illegalCommand cw = true then .illegalCmd
      else if op = 1 ∧ cw.toNat / 16 % 4 = 3 then .badKeyLength
      else if op = 1 ∧ 6 ≤ cw.toNat / 256 % 8 then .badMode
      else if (op = 3 ∨ op = 4 ∨ op = 5) ∧ s.keyValid = false then .noKey
      else if op = 5 ∧ s.cfgMode ≠ .ecb ∧ s.ivValid = false then .noIv
      else .ok

/-- Every instruction answers a next state in every state, as spec/60_exceptions.md section 5 derives; so no data and no host
transaction stops the block. -/
def Obligations.EveryInstructionCompletes : Prop :=
  ∀ (i : Instr) (s : State), ∃ t, exec i s = .next t

/-! ### The host port -/

/-- R52: the register map, every slot's read value and write effect. -/
def Obligations.RegisterMap : Prop :=
  (∀ (s : State), exec (.hostRead 0) s = .next { s with observed := s.observed ++ [0] }
    ∧ exec (.hostRead 1) s = .next { s with observed := s.observed ++ [statusWord s] }
    ∧ exec (.hostRead 2) s = .next { s with observed := s.observed ++ [configWord s] }
    ∧ exec (.hostRead 3) s = .next { s with observed := s.observed ++ [0] })
  ∧ (∀ (s : State) (idx : BitVec 5), (4 ≤ idx.toNat ∧ idx.toNat ≤ 15 ∨ 28 ≤ idx.toNat) →
      exec (.hostRead idx) s = .next { s with observed := s.observed ++ [0] })
  ∧ (∀ (s : State) (k : Fin 4),
      exec (.hostRead (BitVec.ofNat 5 (16 + k))) s = .next { s with observed := s.observed ++ [s.din.word k] }
      ∧ exec (.hostRead (BitVec.ofNat 5 (20 + k))) s = .next { s with observed := s.observed ++ [s.dout.word k] }
      ∧ exec (.hostRead (BitVec.ofNat 5 (24 + k))) s = .next { s with observed := s.observed ++ [s.chain.word k] })
  ∧ (∀ (s : State) (i : Instr) (cw : Word), commandWord i = some cw → exec (.hostWrite 0 cw) s = exec i s)
  ∧ (∀ (s : State) (k : Fin 8) (w : Word),
      exec (.hostWrite (BitVec.ofNat 5 (4 + k)) w) s = .next { s with key := s.key.set k w })
  ∧ (∀ (s : State) (k : Fin 4) (w : Word),
      exec (.hostWrite (BitVec.ofNat 5 (12 + k)) w) s = .next { s with iv := s.iv.setWord k w }
      ∧ exec (.hostWrite (BitVec.ofNat 5 (16 + k)) w) s = .next { s with din := s.din.setWord k w })
  ∧ ∀ (s : State) (idx : BitVec 5) (w : Word), (1 ≤ idx.toNat ∧ idx.toNat ≤ 3 ∨ 20 ≤ idx.toNat) →
      exec (.hostWrite idx w) s = .next s

/-- R53, R216: no host access but a write to CMD changes STATUS, none fails, and a write to a slot that stores nothing changes
no state; reads of CMD, KEY, IV and the reserved slots return 0. -/
def Obligations.HostAccessNeverFails : Prop :=
  (∀ (s : State) (idx : BitVec 5) (w : Word), idx ≠ 0 → ∃ t, exec (.hostWrite idx w) s = .next t
    ∧ statusWord t = statusWord s
    ∧ ((idx.toNat < 4 ∨ 20 ≤ idx.toNat) → t = s))
  ∧ ∀ (s : State) (idx : BitVec 5), ∃ v t, exec (.hostRead idx) s = .next t
      ∧ t = { s with observed := s.observed ++ [v] } ∧ statusWord t = statusWord s
      ∧ ((idx.toNat = 0 ∨ 3 ≤ idx.toNat ∧ idx.toNat ≤ 15 ∨ 28 ≤ idx.toNat) → v = 0)

/-- R63: reads return nothing of KEY, IV, ENC_RK and DEC_RK: states that differ only there give the same values. -/
def Obligations.ReadsRevealNoSecret : Prop :=
  ∀ (s : State) (key : KeyRegs) (iv : Block) (erk drk : Schedule) (idx : BitVec 5), ∃ v,
    exec (.hostRead idx) s = .next { s with observed := s.observed ++ [v] }
    ∧ exec (.hostRead idx) { s with key := key, iv := iv, encRk := erk, decRk := drk } =
        .next { s with key := key, iv := iv, encRk := erk, decRk := drk, observed := s.observed ++ [v] }

/-- R35: the layout of STATUS, with the codes of ERR; reading it has no side effect. -/
def Obligations.StatusLayout : Prop :=
  (∀ s : State,
    (statusWord s).getLsbD 0 = s.keyValid ∧ (statusWord s).getLsbD 1 = s.ivValid
    ∧ (statusWord s).extractLsb' 2 2 = 0 ∧ (statusWord s).extractLsb' 4 4 = s.err.code
    ∧ (statusWord s).getLsbD 8 = s.anyErr ∧ (statusWord s).extractLsb' 9 23 = 0
    ∧ exec (.hostRead 1) s = .next { s with observed := s.observed ++ [statusWord s] })
  ∧ ErrCode.code .ok = 0 ∧ ErrCode.code .illegalCmd = 1 ∧ ErrCode.code .badKeyLength = 2 ∧ ErrCode.code .badMode = 3
  ∧ ErrCode.code .noKey = 4 ∧ ErrCode.code .noIv = 5

/-- R36: the layout of CONFIG; after a successful SET_KEY bits [12:4] are those of the command word, and a failing one leaves
CONFIG as it was with KEY_VALID 0. -/
def Obligations.ConfigLayout : Prop :=
  (∀ s : State,
    (configWord s).extractLsb' 0 4 = 0 ∧ (configWord s).extractLsb' 4 2 = s.cfgKlen.code
    ∧ (configWord s).extractLsb' 6 2 = 0 ∧ (configWord s).extractLsb' 8 3 = s.cfgMode.code
    ∧ (configWord s).getLsbD 11 = false ∧ (configWord s).extractLsb' 12 1 = s.cfgDir.code
    ∧ (configWord s).extractLsb' 13 3 = 0 ∧ (configWord s).extractLsb' 16 5 = s.nr
    ∧ (configWord s).extractLsb' 21 11 = 0)
  ∧ (∀ (k : KeyLen) (m : Mode) (dir : Dir) (s : State), ∃ t, exec (.setKey k.code m.code dir) s = .next t
      ∧ (configWord t).extractLsb' 4 9 = (setKeyWord k.code m.code dir).extractLsb' 4 9)
  ∧ ∀ (klen : BitVec 2) (mode : BitVec 3) (dir : Dir) (s : State), (klen = 3 ∨ 5 < mode.toNat) →
      ∃ t, exec (.setKey klen mode dir) s = .next t ∧ configWord t = configWord s ∧ t.keyValid = false

/-- The frames of the data registers, over every write to CMD (spec/10_state.md section 2): a command never writes DIN or IV
but ZEROIZE; DOUT changes only by a block command that succeeds and by ZEROIZE; CHAIN only by SET_IV, a PROCESS_BLOCK that
succeeds in a mode other than ECB, and ZEROIZE; KEY only by SET_KEY and ZEROIZE; no command takes or adds an input or an
observation. -/
def Obligations.CommandFrames : Prop :=
  ∀ (cw : Word) (s t : State), exec (.hostWrite 0 cw) s = .next t →
    let op := cw.toNat % 16
    (op ≠ 6 → t.din = s.din ∧ t.iv = s.iv)
    ∧ (¬ (op = 3 ∨ op = 4 ∨ op = 5 ∨ op = 6) ∨ t.err ≠ .ok → t.dout = s.dout)
    ∧ (¬ (op = 2 ∨ op = 5 ∨ op = 6) ∨ t.err ≠ .ok ∨ (op = 5 ∧ s.cfgMode = .ecb) → t.chain = s.chain)
    ∧ (¬ (op = 1 ∨ op = 6) → t.key = s.key ∧ t.cfgKlen = s.cfgKlen ∧ t.cfgMode = s.cfgMode ∧ t.cfgDir = s.cfgDir)
    ∧ t.pending = s.pending ∧ t.observed = s.observed

/-! ### The machine as a whole -/

/-- The invariant of spec/10_state.md section 7 is kept by every step from every state that has it. -/
def Obligations.StepKeepsTheInvariant : Prop :=
  ∀ s t : State, Inv s → step s = .next t → Inv t

/-- The reset state has the invariant, and the invariant gives what spec/10_state.md section 7 says of a state with KEY_VALID
and of NR in every state. -/
def Obligations.InvariantAtResetAndItsMeaning : Prop :=
  Inv State.reset
  ∧ ∀ s : State, Inv s →
    (s.keyValid = true → s.nr.toNat = 10 + 2 * s.cfgKlen.code.toNat
      ∧ ∃ secret, s.encRk = encSchedule s.cfgKlen secret ∧ s.decRk = decSchedule s.cfgKlen secret)
    ∧ (s.nr = 0 ∨ s.nr = 10 ∨ s.nr = 12 ∨ s.nr = 14)

/-- The phases of the mode engine and their transitions, as spec/10_state.md section 7 derives them. -/
def Obligations.PhaseTransitions : Prop :=
  (∀ (k : KeyLen) (m : Mode) (dir : Dir) (s : State), ∃ t, exec (.setKey k.code m.code dir) s = .next t ∧ phase t = .keyed)
  ∧ (∀ (klen : BitVec 2) (mode : BitVec 3) (dir : Dir) (s : State), (klen = 3 ∨ 5 < mode.toNat) →
      ∃ t, exec (.setKey klen mode dir) s = .next t ∧ phase t = .unkeyed)
  ∧ (∀ s : State, ∃ t, exec .setIv s = .next t
      ∧ phase t = (if phase s = .unkeyed then .unkeyed else .streaming) ∧ t.ivValid = true)
  ∧ (∀ s : State, ∃ t, exec .zeroize s = .next t ∧ phase t = .unkeyed)
  ∧ ∀ (i : Instr) (s : State), (i = .encryptBlock ∨ i = .decryptBlock ∨ i = .processBlock) →
      ∃ t, exec i s = .next t ∧ phase t = phase s

/-- R240: reset sets every register to zero, and STATUS and CONFIG read 0 after it: the reset state itself, the operation
from every state, and the next state of a step that takes `rst`. -/
def Obligations.ResetZeroesEveryRegister : Prop :=
  let zeroed (t : State) : Prop :=
    t.key = Vector.replicate 8 0 ∧ t.iv = ⟨0, 0, 0, 0⟩ ∧ t.din = ⟨0, 0, 0, 0⟩ ∧ t.dout = ⟨0, 0, 0, 0⟩
    ∧ t.chain = ⟨0, 0, 0, 0⟩ ∧ t.encRk = Vector.replicate 60 0 ∧ t.decRk = Vector.replicate 60 0 ∧ t.nr = 0
    ∧ t.cfgKlen.code = 0 ∧ t.cfgMode.code = 0 ∧ t.cfgDir.code = 0 ∧ t.keyValid = false ∧ t.ivValid = false
    ∧ t.err.code = 0 ∧ t.anyErr = false ∧ statusWord t = 0 ∧ configWord t = 0
  zeroed State.reset
  ∧ (∀ s : State, zeroed (applyReset s))
  ∧ ∀ (s : State) (rest : List HostInput), s.pending = .rst :: rest → ∃ t, step s = .next t ∧ zeroed t

/-- What a freshly reset block does, as spec/70_reset_and_hazards.md section 1 derives it: block commands are refused with
NO_KEY, SET_IV and ZEROIZE succeed, and SET_KEY succeeds with the all-zero secret. -/
def Obligations.CommandsAfterReset : Prop :=
  (∀ i : Instr, i = .encryptBlock ∨ i = .decryptBlock ∨ i = .processBlock →
    exec i State.reset = .next { State.reset with err := .noKey, anyErr := true })
  ∧ (∀ i : Instr, i = .setIv ∨ i = .zeroize → ∃ t, exec i State.reset = .next t ∧ t.err = .ok)
  ∧ ∀ (k : KeyLen) (m : Mode) (dir : Dir), ∃ t, exec (.setKey k.code m.code dir) State.reset = .next t
      ∧ t.err = .ok ∧ t.keyValid = true ∧ t.encRk = encSchedule k (Vector.replicate 8 0)

/-- Independent instances, in the model's rendering of them as a list of states (log entry 10, the model's choice;
spec/60_exceptions.md section 4): a step of one instance leaves every other as it was, and, which is an inference from that
independence, steps of two instances commute. -/
def Obligations.InstancesAreIndependent : Prop :=
  (∀ (k : Nat) (p q : List State), stepAt k p = .next q →
    q.length = p.length ∧ ∀ j, j ≠ k → q[j]? = p[j]?)
  ∧ ∀ (j k : Nat) (p q q' r : List State), j ≠ k → stepAt j p = .next q → stepAt k q = .next r →
      stepAt k p = .next q' → stepAt j q' = .next r
end

