-- ==== Sys2Proof/Laws/Bytes.lean ====
section
/-! SUPPORT. Bytes, words and blocks: packing and unpacking undo each other, and a block is its sixteen bytes
(spec/20_memory.md R54). -/

namespace Sys2Proof

/-! ### Words -/

theorem packWord_getLsbD (b0 b1 b2 b3 : Byte) (i : Nat) :
    (packWord b0 b1 b2 b3).getLsbD i =
      if i < 8 then b0.getLsbD i else if i < 16 then b1.getLsbD (i - 8)
      else if i < 24 then b2.getLsbD (i - 16) else if i < 32 then b3.getLsbD (i - 24) else false := by
  have h0 : 8 ≤ i → b0.getLsbD i = false := BitVec.getLsbD_of_ge _ _
  have h1 : 8 ≤ i - 8 → b1.getLsbD (i - 8) = false := BitVec.getLsbD_of_ge _ _
  have h2 : 8 ≤ i - 16 → b2.getLsbD (i - 16) = false := BitVec.getLsbD_of_ge _ _
  have h3 : 8 ≤ i - 24 → b3.getLsbD (i - 24) = false := BitVec.getLsbD_of_ge _ _
  simp only [packWord, BitVec.getLsbD_or, BitVec.getLsbD_shiftLeft, BitVec.getLsbD_setWidth]
  grind

theorem byteOf_getLsbD (w : Word) (j i : Nat) :
    (byteOf w j).getLsbD i = (decide (i < 8) && w.getLsbD (8 * j + i)) := by
  simp [byteOf]

@[simp] theorem byteOf_packWord_zero (b0 b1 b2 b3 : Byte) : byteOf (packWord b0 b1 b2 b3) 0 = b0 := by
  refine BitVec.eq_of_getLsbD_eq fun i hi => ?_
  rw [byteOf_getLsbD, packWord_getLsbD]; grind

@[simp] theorem byteOf_packWord_one (b0 b1 b2 b3 : Byte) : byteOf (packWord b0 b1 b2 b3) 1 = b1 := by
  refine BitVec.eq_of_getLsbD_eq fun i hi => ?_
  rw [byteOf_getLsbD, packWord_getLsbD]; grind

@[simp] theorem byteOf_packWord_two (b0 b1 b2 b3 : Byte) : byteOf (packWord b0 b1 b2 b3) 2 = b2 := by
  refine BitVec.eq_of_getLsbD_eq fun i hi => ?_
  rw [byteOf_getLsbD, packWord_getLsbD]; grind

@[simp] theorem byteOf_packWord_three (b0 b1 b2 b3 : Byte) : byteOf (packWord b0 b1 b2 b3) 3 = b3 := by
  refine BitVec.eq_of_getLsbD_eq fun i hi => ?_
  rw [byteOf_getLsbD, packWord_getLsbD]; grind

@[simp] theorem packWord_byteOf (w : Word) : packWord (byteOf w 0) (byteOf w 1) (byteOf w 2) (byteOf w 3) = w := by
  refine BitVec.eq_of_getLsbD_eq fun i hi => ?_
  rw [packWord_getLsbD]; simp only [byteOf_getLsbD]; grind

@[simp] theorem byteOf_xor (v w : Word) (j : Nat) : byteOf (v ^^^ w) j = byteOf v j ^^^ byteOf w j := by
  refine BitVec.eq_of_getLsbD_eq fun i hi => ?_
  simp only [byteOf_getLsbD, BitVec.getLsbD_xor, hi, decide_true, Bool.true_and]

/-- Two words with the same bytes are the same word. -/
theorem word_ext {v w : Word} (h : ∀ j, j < 4 → byteOf v j = byteOf w j) : v = w := by
  rw [← packWord_byteOf v, ← packWord_byteOf w, h 0 (by decide), h 1 (by decide), h 2 (by decide), h 3 (by decide)]

/-! ### Blocks -/

/-- Byte n of the block built from `f` is `f n`. -/
theorem Block.byte_ofBytes (f : Nat → Byte) {n : Nat} (h : n < 16) : (Block.ofBytes f).byte n = f n := by
  interval_cases n <;> simp [Block.byte, Block.word, Block.ofBytes]

@[simp] theorem Block.ofBytes_byte (b : Block) : Block.ofBytes b.byte = b := by
  simp [Block.ofBytes, Block.byte, Block.word]

/-- Two blocks with the same sixteen bytes are the same block. -/
theorem Block.ext_bytes {a b : Block} (h : ∀ n, n < 16 → a.byte n = b.byte n) : a = b := by
  rw [← Block.ofBytes_byte a, ← Block.ofBytes_byte b]
  simp [Block.ofBytes, h]

/-- Exclusive or of blocks is bytewise. -/
@[simp] theorem Block.byte_xor (a b : Block) (n : Nat) : (a.xor b).byte n = a.byte n ^^^ b.byte n := by
  unfold Block.byte Block.word Block.xor
  split <;> first | exact byteOf_xor _ _ _ | simp [byteOf]

theorem Block.xor_comm (a b : Block) : a.xor b = b.xor a := by
  simp [Block.xor, BitVec.xor_comm]

theorem Block.xor_assoc (a b c : Block) : (a.xor b).xor c = a.xor (b.xor c) := by
  simp [Block.xor, BitVec.xor_assoc]

@[simp] theorem Block.xor_xor_cancel (a b : Block) : (a.xor b).xor b = a := by
  simp [Block.xor]

@[simp] theorem Block.xor_cancel_left (a b : Block) : a.xor (a.xor b) = b := by
  simp [Block.xor]

end Sys2Proof
end

