-- ==== Sys2Proof/Laws/Codes.lean ====
section
/-! SUPPORT. The field codes: each code names one key length, mode or direction, and the reserved codes name none
(spec/30_encoding.md R72, R73, R74). -/

namespace Sys2Proof

@[simp] theorem KeyLen.ofCode_code (k : KeyLen) : KeyLen.ofCode k.code = some k := by cases k <;> rfl

@[simp] theorem Mode.ofCode_code (m : Mode) : Mode.ofCode m.code = some m := by cases m <;> rfl

@[simp] theorem Dir.ofBit_code (d : Dir) : Dir.ofBit (d.code.getLsbD 0) = d := by cases d <;> rfl

theorem KeyLen.ofCode_eq_some {c : BitVec 2} {k : KeyLen} : KeyLen.ofCode c = some k ↔ c = k.code := by
  revert c k; intro c k; cases k <;> revert c <;> decide

theorem KeyLen.ofCode_eq_none {c : BitVec 2} : KeyLen.ofCode c = none ↔ c = 3 := by
  revert c; decide

theorem Mode.ofCode_eq_some {c : BitVec 3} {m : Mode} : Mode.ofCode c = some m ↔ c = m.code := by
  cases m <;> revert c <;> decide

theorem Mode.ofCode_eq_none {c : BitVec 3} : Mode.ofCode c = none ↔ 5 < c.toNat := by
  revert c; decide

/-- NR of a key length is its round count: five bits hold it (spec/10_state.md R27). -/
@[simp] theorem Machine.toNat_rounds (k : KeyLen) : (BitVec.ofNat 5 (Machine.rounds k)).toNat = Machine.rounds k := by
  cases k <;> rfl

/-- N_r = 10 + 2·KLEN (spec/10_state.md R41). -/
theorem Machine.rounds_eq_code (k : KeyLen) : Machine.rounds k = 10 + 2 * k.code.toNat := by cases k <;> rfl

/-- N_k = 4 + 2·KLEN (spec/41_key_schedule.md R130). -/
theorem Machine.keyWords_eq_code (k : KeyLen) : Machine.keyWords k = 4 + 2 * k.code.toNat := by cases k <;> rfl

end Sys2Proof
end

