-- ==== Sys2Proof/Laws/Port.lean ====
section
/-! SUPPORT. The port: the fields of a transaction, what the decoders give, what taking an input gives, and what one step
can be (spec/20_memory.md R51, R57; spec/30_encoding.md R77). -/

namespace Sys2Proof

/-! ### Fields of a transaction -/

theorem transactionWord_getLsbD (we : Bool) (idx : BitVec 5) (wdata : Word) (i : Nat) :
    (transactionWord we idx wdata).getLsbD i =
      if i < 32 then wdata.getLsbD i else if i < 37 then idx.getLsbD (i - 32) else decide (i = 37) && we := by
  have h0 : 32 ≤ i → wdata.getLsbD i = false := BitVec.getLsbD_of_ge _ _
  have h1 : 5 ≤ i - 32 → idx.getLsbD (i - 32) = false := BitVec.getLsbD_of_ge _ _
  simp only [transactionWord, BitVec.getLsbD_or, BitVec.getLsbD_shiftLeft, BitVec.getLsbD_setWidth, BitVec.getLsbD_ofBool]
  cases we <;> grind

theorem transactionWord_we (we : Bool) (idx : BitVec 5) (wdata : Word) :
    (transactionWord we idx wdata).getLsbD 37 = we := by
  rw [transactionWord_getLsbD]; rfl

@[simp] theorem transactionWord_getElem_we (we : Bool) (idx : BitVec 5) (wdata : Word) :
    (transactionWord we idx wdata)[37] = we := by
  rw [← BitVec.getLsbD_eq_getElem, transactionWord_we]

@[simp] theorem transactionWord_idx (we : Bool) (idx : BitVec 5) (wdata : Word) :
    (transactionWord we idx wdata).extractLsb' 32 5 = idx := by
  refine BitVec.eq_of_getLsbD_eq fun i hi => ?_
  rw [BitVec.getLsbD_extractLsb', transactionWord_getLsbD]; grind

@[simp] theorem transactionWord_wdata (we : Bool) (idx : BitVec 5) (wdata : Word) :
    (transactionWord we idx wdata).extractLsb' 0 32 = wdata := by
  refine BitVec.eq_of_getLsbD_eq fun i hi => ?_
  rw [BitVec.getLsbD_extractLsb', transactionWord_getLsbD]; grind

/-! ### The decoders -/

theorem decodeTransaction_write (idx : BitVec 5) (wdata : Word) :
    decodeTransaction (transactionWord true idx wdata) = decodeWrite idx wdata := by
  simp [decodeTransaction]

theorem decodeTransaction_read (idx : BitVec 5) (wdata : Word) :
    decodeTransaction (transactionWord false idx wdata) = .hostRead idx := by
  simp [decodeTransaction]

/-- The decoder of command words gives a command, never a host transaction. -/
theorem commandWord_isSome_of_decodeCommand {cw : Word} {i : Instr} (h : decodeCommand cw = .ok i) :
    (commandWord i).isSome := by
  simp only [decodeCommand] at h
  repeat' split at h
  all_goals first | (obtain rfl := Except.ok.inj h; rfl) | cases h

/-- A refused command word is an illegal one. -/
theorem error_of_decodeCommand {cw : Word} {e : DecodeError} (h : decodeCommand cw = .error e) :
    e = .illegalCommand := by
  simp only [decodeCommand] at h
  repeat' split at h
  all_goals first | exact (Except.error.inj h).symm | cases h

/-! ### Taking an input, and one step -/

namespace Machine

theorem takeInput_nil {s : State} (h : s.pending = []) : takeInput s = .nothing := by simp [takeInput, h]

theorem takeInput_rst {s : State} {rest : List HostInput} (h : s.pending = .rst :: rest) :
    takeInput s = .reset { s with pending := rest } := by simp [takeInput, h]

theorem takeInput_transaction {s : State} {t : Transaction} {rest : List HostInput}
    (h : s.pending = .transaction t :: rest) : takeInput s = .transaction t { s with pending := rest } := by
  simp [takeInput, h]

/-- Everything a step that answers a next state can be: nothing presented, a reset, or one transaction run. -/
theorem step_cases {s t : State} (h : step s = .next t) :
    (takeInput s = .nothing ∧ t = s)
    ∨ (∃ u, takeInput s = .reset u ∧ t = applyReset u)
    ∨ ∃ w u, takeInput s = .transaction w u ∧ exec (decodeTransaction w) u = .next t := by
  unfold step at h
  split at h
  · next e => exact .inl ⟨e, (Host.Outcome.next.inj h).symm⟩
  · next u e => exact .inr (.inl ⟨u, e, (Host.Outcome.next.inj h).symm⟩)
  · next w u e => exact .inr (.inr ⟨w, u, e, h⟩)
  · cases h

/-- A state out of which an input was taken has every register as before. -/
theorem takeInput_state {s u : State} (h : takeInput s = .reset u ∨ ∃ w, takeInput s = .transaction w u) :
    ∃ rest, u = { s with pending := rest } := by
  unfold takeInput at h
  split at h
  · simp at h
  · next rest _ => exact ⟨rest, by simpa [eq_comm] using h⟩
  · next rest _ => exact ⟨rest, by simpa [eq_comm] using h⟩
  · next rest _ =>
    split at h
    · exact ⟨rest, by simpa [eq_comm] using h⟩
    · simp at h

end Machine

end Sys2Proof
end

