-- ==== Sys2Proof/Laws/State.lean ====
section
/-! SUPPORT. One lemma per field of State per named update, so that no later proof unfolds a record update. -/

namespace Sys2Proof.Machine

/-! ### cmdOk -/

@[simp] theorem cmdOk_key (s : State) : (cmdOk s).key = s.key := rfl
@[simp] theorem cmdOk_iv (s : State) : (cmdOk s).iv = s.iv := rfl
@[simp] theorem cmdOk_din (s : State) : (cmdOk s).din = s.din := rfl
@[simp] theorem cmdOk_dout (s : State) : (cmdOk s).dout = s.dout := rfl
@[simp] theorem cmdOk_chain (s : State) : (cmdOk s).chain = s.chain := rfl
@[simp] theorem cmdOk_encRk (s : State) : (cmdOk s).encRk = s.encRk := rfl
@[simp] theorem cmdOk_decRk (s : State) : (cmdOk s).decRk = s.decRk := rfl
@[simp] theorem cmdOk_nr (s : State) : (cmdOk s).nr = s.nr := rfl
@[simp] theorem cmdOk_cfgKlen (s : State) : (cmdOk s).cfgKlen = s.cfgKlen := rfl
@[simp] theorem cmdOk_cfgMode (s : State) : (cmdOk s).cfgMode = s.cfgMode := rfl
@[simp] theorem cmdOk_cfgDir (s : State) : (cmdOk s).cfgDir = s.cfgDir := rfl
@[simp] theorem cmdOk_keyValid (s : State) : (cmdOk s).keyValid = s.keyValid := rfl
@[simp] theorem cmdOk_ivValid (s : State) : (cmdOk s).ivValid = s.ivValid := rfl
@[simp] theorem cmdOk_err (s : State) : (cmdOk s).err = .ok := rfl
@[simp] theorem cmdOk_anyErr (s : State) : (cmdOk s).anyErr = s.anyErr := rfl
@[simp] theorem cmdOk_pending (s : State) : (cmdOk s).pending = s.pending := rfl
@[simp] theorem cmdOk_observed (s : State) : (cmdOk s).observed = s.observed := rfl

/-! ### cmdError -/

@[simp] theorem cmdError_key (c : ErrCode) (s : State) : (cmdError c s).key = s.key := rfl
@[simp] theorem cmdError_iv (c : ErrCode) (s : State) : (cmdError c s).iv = s.iv := rfl
@[simp] theorem cmdError_din (c : ErrCode) (s : State) : (cmdError c s).din = s.din := rfl
@[simp] theorem cmdError_dout (c : ErrCode) (s : State) : (cmdError c s).dout = s.dout := rfl
@[simp] theorem cmdError_chain (c : ErrCode) (s : State) : (cmdError c s).chain = s.chain := rfl
@[simp] theorem cmdError_encRk (c : ErrCode) (s : State) : (cmdError c s).encRk = s.encRk := rfl
@[simp] theorem cmdError_decRk (c : ErrCode) (s : State) : (cmdError c s).decRk = s.decRk := rfl
@[simp] theorem cmdError_nr (c : ErrCode) (s : State) : (cmdError c s).nr = s.nr := rfl
@[simp] theorem cmdError_cfgKlen (c : ErrCode) (s : State) : (cmdError c s).cfgKlen = s.cfgKlen := rfl
@[simp] theorem cmdError_cfgMode (c : ErrCode) (s : State) : (cmdError c s).cfgMode = s.cfgMode := rfl
@[simp] theorem cmdError_cfgDir (c : ErrCode) (s : State) : (cmdError c s).cfgDir = s.cfgDir := rfl
@[simp] theorem cmdError_keyValid (c : ErrCode) (s : State) : (cmdError c s).keyValid = s.keyValid := rfl
@[simp] theorem cmdError_ivValid (c : ErrCode) (s : State) : (cmdError c s).ivValid = s.ivValid := rfl
@[simp] theorem cmdError_err (c : ErrCode) (s : State) : (cmdError c s).err = c := rfl
@[simp] theorem cmdError_anyErr (c : ErrCode) (s : State) : (cmdError c s).anyErr = true := rfl
@[simp] theorem cmdError_pending (c : ErrCode) (s : State) : (cmdError c s).pending = s.pending := rfl
@[simp] theorem cmdError_observed (c : ErrCode) (s : State) : (cmdError c s).observed = s.observed := rfl

/-! ### clearKey -/

@[simp] theorem clearKey_key (s : State) : (clearKey s).key = KeyRegs.zero := rfl
@[simp] theorem clearKey_iv (s : State) : (clearKey s).iv = s.iv := rfl
@[simp] theorem clearKey_din (s : State) : (clearKey s).din = s.din := rfl
@[simp] theorem clearKey_dout (s : State) : (clearKey s).dout = s.dout := rfl
@[simp] theorem clearKey_chain (s : State) : (clearKey s).chain = s.chain := rfl
@[simp] theorem clearKey_encRk (s : State) : (clearKey s).encRk = s.encRk := rfl
@[simp] theorem clearKey_decRk (s : State) : (clearKey s).decRk = s.decRk := rfl
@[simp] theorem clearKey_nr (s : State) : (clearKey s).nr = s.nr := rfl
@[simp] theorem clearKey_cfgKlen (s : State) : (clearKey s).cfgKlen = s.cfgKlen := rfl
@[simp] theorem clearKey_cfgMode (s : State) : (clearKey s).cfgMode = s.cfgMode := rfl
@[simp] theorem clearKey_cfgDir (s : State) : (clearKey s).cfgDir = s.cfgDir := rfl
@[simp] theorem clearKey_keyValid (s : State) : (clearKey s).keyValid = s.keyValid := rfl
@[simp] theorem clearKey_ivValid (s : State) : (clearKey s).ivValid = s.ivValid := rfl
@[simp] theorem clearKey_err (s : State) : (clearKey s).err = s.err := rfl
@[simp] theorem clearKey_anyErr (s : State) : (clearKey s).anyErr = s.anyErr := rfl
@[simp] theorem clearKey_pending (s : State) : (clearKey s).pending = s.pending := rfl
@[simp] theorem clearKey_observed (s : State) : (clearKey s).observed = s.observed := rfl

/-! ### dropKey -/

@[simp] theorem dropKey_key (s : State) : (dropKey s).key = s.key := rfl
@[simp] theorem dropKey_iv (s : State) : (dropKey s).iv = s.iv := rfl
@[simp] theorem dropKey_din (s : State) : (dropKey s).din = s.din := rfl
@[simp] theorem dropKey_dout (s : State) : (dropKey s).dout = s.dout := rfl
@[simp] theorem dropKey_chain (s : State) : (dropKey s).chain = s.chain := rfl
@[simp] theorem dropKey_encRk (s : State) : (dropKey s).encRk = s.encRk := rfl
@[simp] theorem dropKey_decRk (s : State) : (dropKey s).decRk = s.decRk := rfl
@[simp] theorem dropKey_nr (s : State) : (dropKey s).nr = s.nr := rfl
@[simp] theorem dropKey_cfgKlen (s : State) : (dropKey s).cfgKlen = s.cfgKlen := rfl
@[simp] theorem dropKey_cfgMode (s : State) : (dropKey s).cfgMode = s.cfgMode := rfl
@[simp] theorem dropKey_cfgDir (s : State) : (dropKey s).cfgDir = s.cfgDir := rfl
@[simp] theorem dropKey_keyValid (s : State) : (dropKey s).keyValid = false := rfl
@[simp] theorem dropKey_ivValid (s : State) : (dropKey s).ivValid = false := rfl
@[simp] theorem dropKey_err (s : State) : (dropKey s).err = s.err := rfl
@[simp] theorem dropKey_anyErr (s : State) : (dropKey s).anyErr = s.anyErr := rfl
@[simp] theorem dropKey_pending (s : State) : (dropKey s).pending = s.pending := rfl
@[simp] theorem dropKey_observed (s : State) : (dropKey s).observed = s.observed := rfl

/-! ### returnData -/

@[simp] theorem returnData_key (v : Word) (s : State) : (returnData v s).key = s.key := rfl
@[simp] theorem returnData_iv (v : Word) (s : State) : (returnData v s).iv = s.iv := rfl
@[simp] theorem returnData_din (v : Word) (s : State) : (returnData v s).din = s.din := rfl
@[simp] theorem returnData_dout (v : Word) (s : State) : (returnData v s).dout = s.dout := rfl
@[simp] theorem returnData_chain (v : Word) (s : State) : (returnData v s).chain = s.chain := rfl
@[simp] theorem returnData_encRk (v : Word) (s : State) : (returnData v s).encRk = s.encRk := rfl
@[simp] theorem returnData_decRk (v : Word) (s : State) : (returnData v s).decRk = s.decRk := rfl
@[simp] theorem returnData_nr (v : Word) (s : State) : (returnData v s).nr = s.nr := rfl
@[simp] theorem returnData_cfgKlen (v : Word) (s : State) : (returnData v s).cfgKlen = s.cfgKlen := rfl
@[simp] theorem returnData_cfgMode (v : Word) (s : State) : (returnData v s).cfgMode = s.cfgMode := rfl
@[simp] theorem returnData_cfgDir (v : Word) (s : State) : (returnData v s).cfgDir = s.cfgDir := rfl
@[simp] theorem returnData_keyValid (v : Word) (s : State) : (returnData v s).keyValid = s.keyValid := rfl
@[simp] theorem returnData_ivValid (v : Word) (s : State) : (returnData v s).ivValid = s.ivValid := rfl
@[simp] theorem returnData_err (v : Word) (s : State) : (returnData v s).err = s.err := rfl
@[simp] theorem returnData_anyErr (v : Word) (s : State) : (returnData v s).anyErr = s.anyErr := rfl
@[simp] theorem returnData_pending (v : Word) (s : State) : (returnData v s).pending = s.pending := rfl
@[simp] theorem returnData_observed (v : Word) (s : State) : (returnData v s).observed = s.observed ++ [v] := rfl

/-! ### issue -/

@[simp] theorem issue_key (l : List HostInput) (s : State) : (issue l s).key = s.key := rfl
@[simp] theorem issue_iv (l : List HostInput) (s : State) : (issue l s).iv = s.iv := rfl
@[simp] theorem issue_din (l : List HostInput) (s : State) : (issue l s).din = s.din := rfl
@[simp] theorem issue_dout (l : List HostInput) (s : State) : (issue l s).dout = s.dout := rfl
@[simp] theorem issue_chain (l : List HostInput) (s : State) : (issue l s).chain = s.chain := rfl
@[simp] theorem issue_encRk (l : List HostInput) (s : State) : (issue l s).encRk = s.encRk := rfl
@[simp] theorem issue_decRk (l : List HostInput) (s : State) : (issue l s).decRk = s.decRk := rfl
@[simp] theorem issue_nr (l : List HostInput) (s : State) : (issue l s).nr = s.nr := rfl
@[simp] theorem issue_cfgKlen (l : List HostInput) (s : State) : (issue l s).cfgKlen = s.cfgKlen := rfl
@[simp] theorem issue_cfgMode (l : List HostInput) (s : State) : (issue l s).cfgMode = s.cfgMode := rfl
@[simp] theorem issue_cfgDir (l : List HostInput) (s : State) : (issue l s).cfgDir = s.cfgDir := rfl
@[simp] theorem issue_keyValid (l : List HostInput) (s : State) : (issue l s).keyValid = s.keyValid := rfl
@[simp] theorem issue_ivValid (l : List HostInput) (s : State) : (issue l s).ivValid = s.ivValid := rfl
@[simp] theorem issue_err (l : List HostInput) (s : State) : (issue l s).err = s.err := rfl
@[simp] theorem issue_anyErr (l : List HostInput) (s : State) : (issue l s).anyErr = s.anyErr := rfl
@[simp] theorem issue_pending (l : List HostInput) (s : State) : (issue l s).pending = s.pending ++ l := rfl
@[simp] theorem issue_observed (l : List HostInput) (s : State) : (issue l s).observed = s.observed := rfl

/-! ### eraseAll -/

@[simp] theorem eraseAll_key (s : State) : (eraseAll s).key = KeyRegs.zero := rfl
@[simp] theorem eraseAll_iv (s : State) : (eraseAll s).iv = Block.zero := rfl
@[simp] theorem eraseAll_din (s : State) : (eraseAll s).din = Block.zero := rfl
@[simp] theorem eraseAll_dout (s : State) : (eraseAll s).dout = Block.zero := rfl
@[simp] theorem eraseAll_chain (s : State) : (eraseAll s).chain = Block.zero := rfl
@[simp] theorem eraseAll_encRk (s : State) : (eraseAll s).encRk = Schedule.zero := rfl
@[simp] theorem eraseAll_decRk (s : State) : (eraseAll s).decRk = Schedule.zero := rfl
@[simp] theorem eraseAll_nr (s : State) : (eraseAll s).nr = 0 := rfl
@[simp] theorem eraseAll_cfgKlen (s : State) : (eraseAll s).cfgKlen = .aes128 := rfl
@[simp] theorem eraseAll_cfgMode (s : State) : (eraseAll s).cfgMode = .ecb := rfl
@[simp] theorem eraseAll_cfgDir (s : State) : (eraseAll s).cfgDir = .encrypt := rfl
@[simp] theorem eraseAll_keyValid (s : State) : (eraseAll s).keyValid = false := rfl
@[simp] theorem eraseAll_ivValid (s : State) : (eraseAll s).ivValid = false := rfl
@[simp] theorem eraseAll_err (s : State) : (eraseAll s).err = s.err := rfl
@[simp] theorem eraseAll_anyErr (s : State) : (eraseAll s).anyErr = s.anyErr := rfl
@[simp] theorem eraseAll_pending (s : State) : (eraseAll s).pending = s.pending := rfl
@[simp] theorem eraseAll_observed (s : State) : (eraseAll s).observed = s.observed := rfl

/-! ### applyReset -/

@[simp] theorem applyReset_key (s : State) : (applyReset s).key = KeyRegs.zero := rfl
@[simp] theorem applyReset_iv (s : State) : (applyReset s).iv = Block.zero := rfl
@[simp] theorem applyReset_din (s : State) : (applyReset s).din = Block.zero := rfl
@[simp] theorem applyReset_dout (s : State) : (applyReset s).dout = Block.zero := rfl
@[simp] theorem applyReset_chain (s : State) : (applyReset s).chain = Block.zero := rfl
@[simp] theorem applyReset_encRk (s : State) : (applyReset s).encRk = Schedule.zero := rfl
@[simp] theorem applyReset_decRk (s : State) : (applyReset s).decRk = Schedule.zero := rfl
@[simp] theorem applyReset_nr (s : State) : (applyReset s).nr = 0 := rfl
@[simp] theorem applyReset_cfgKlen (s : State) : (applyReset s).cfgKlen = .aes128 := rfl
@[simp] theorem applyReset_cfgMode (s : State) : (applyReset s).cfgMode = .ecb := rfl
@[simp] theorem applyReset_cfgDir (s : State) : (applyReset s).cfgDir = .encrypt := rfl
@[simp] theorem applyReset_keyValid (s : State) : (applyReset s).keyValid = false := rfl
@[simp] theorem applyReset_ivValid (s : State) : (applyReset s).ivValid = false := rfl
@[simp] theorem applyReset_err (s : State) : (applyReset s).err = .ok := rfl
@[simp] theorem applyReset_anyErr (s : State) : (applyReset s).anyErr = false := rfl
@[simp] theorem applyReset_pending (s : State) : (applyReset s).pending = s.pending := rfl
@[simp] theorem applyReset_observed (s : State) : (applyReset s).observed = s.observed := rfl

/-! ### installKey -/

@[simp] theorem installKey_key (k : KeyLen) (m : Mode) (d : Dir) (secret : KeyRegs) (s : State) : (installKey k m d secret s).key = s.key := by simp only [installKey]
@[simp] theorem installKey_iv (k : KeyLen) (m : Mode) (d : Dir) (secret : KeyRegs) (s : State) : (installKey k m d secret s).iv = s.iv := by simp only [installKey]
@[simp] theorem installKey_din (k : KeyLen) (m : Mode) (d : Dir) (secret : KeyRegs) (s : State) : (installKey k m d secret s).din = s.din := by simp only [installKey]
@[simp] theorem installKey_dout (k : KeyLen) (m : Mode) (d : Dir) (secret : KeyRegs) (s : State) : (installKey k m d secret s).dout = s.dout := by simp only [installKey]
@[simp] theorem installKey_chain (k : KeyLen) (m : Mode) (d : Dir) (secret : KeyRegs) (s : State) : (installKey k m d secret s).chain = s.chain := by simp only [installKey]
@[simp] theorem installKey_encRk (k : KeyLen) (m : Mode) (d : Dir) (secret : KeyRegs) (s : State) : (installKey k m d secret s).encRk = encSchedule k secret := by simp only [installKey]
@[simp] theorem installKey_decRk (k : KeyLen) (m : Mode) (d : Dir) (secret : KeyRegs) (s : State) : (installKey k m d secret s).decRk = decSchedule k secret := by simp only [installKey]
@[simp] theorem installKey_nr (k : KeyLen) (m : Mode) (d : Dir) (secret : KeyRegs) (s : State) : (installKey k m d secret s).nr = BitVec.ofNat 5 (rounds k) := by simp only [installKey]
@[simp] theorem installKey_cfgKlen (k : KeyLen) (m : Mode) (d : Dir) (secret : KeyRegs) (s : State) : (installKey k m d secret s).cfgKlen = k := by simp only [installKey]
@[simp] theorem installKey_cfgMode (k : KeyLen) (m : Mode) (d : Dir) (secret : KeyRegs) (s : State) : (installKey k m d secret s).cfgMode = m := by simp only [installKey]
@[simp] theorem installKey_cfgDir (k : KeyLen) (m : Mode) (d : Dir) (secret : KeyRegs) (s : State) : (installKey k m d secret s).cfgDir = d := by simp only [installKey]
@[simp] theorem installKey_keyValid (k : KeyLen) (m : Mode) (d : Dir) (secret : KeyRegs) (s : State) : (installKey k m d secret s).keyValid = true := by simp only [installKey]
@[simp] theorem installKey_ivValid (k : KeyLen) (m : Mode) (d : Dir) (secret : KeyRegs) (s : State) : (installKey k m d secret s).ivValid = false := by simp only [installKey]
@[simp] theorem installKey_err (k : KeyLen) (m : Mode) (d : Dir) (secret : KeyRegs) (s : State) : (installKey k m d secret s).err = s.err := by simp only [installKey]
@[simp] theorem installKey_anyErr (k : KeyLen) (m : Mode) (d : Dir) (secret : KeyRegs) (s : State) : (installKey k m d secret s).anyErr = s.anyErr := by simp only [installKey]
@[simp] theorem installKey_pending (k : KeyLen) (m : Mode) (d : Dir) (secret : KeyRegs) (s : State) : (installKey k m d secret s).pending = s.pending := by simp only [installKey]
@[simp] theorem installKey_observed (k : KeyLen) (m : Mode) (d : Dir) (secret : KeyRegs) (s : State) : (installKey k m d secret s).observed = s.observed := by simp only [installKey]

/-! ### writeSlot: everything but the staging registers is as before (spec/20_memory.md R52, R53) -/

@[simp] theorem writeSlot_dout (s : State) (i : BitVec 5) (w : Word) : (writeSlot s i w).dout = s.dout := by
  unfold writeSlot; split <;> rfl
@[simp] theorem writeSlot_chain (s : State) (i : BitVec 5) (w : Word) : (writeSlot s i w).chain = s.chain := by
  unfold writeSlot; split <;> rfl
@[simp] theorem writeSlot_encRk (s : State) (i : BitVec 5) (w : Word) : (writeSlot s i w).encRk = s.encRk := by
  unfold writeSlot; split <;> rfl
@[simp] theorem writeSlot_decRk (s : State) (i : BitVec 5) (w : Word) : (writeSlot s i w).decRk = s.decRk := by
  unfold writeSlot; split <;> rfl
@[simp] theorem writeSlot_nr (s : State) (i : BitVec 5) (w : Word) : (writeSlot s i w).nr = s.nr := by
  unfold writeSlot; split <;> rfl
@[simp] theorem writeSlot_cfgKlen (s : State) (i : BitVec 5) (w : Word) : (writeSlot s i w).cfgKlen = s.cfgKlen := by
  unfold writeSlot; split <;> rfl
@[simp] theorem writeSlot_cfgMode (s : State) (i : BitVec 5) (w : Word) : (writeSlot s i w).cfgMode = s.cfgMode := by
  unfold writeSlot; split <;> rfl
@[simp] theorem writeSlot_cfgDir (s : State) (i : BitVec 5) (w : Word) : (writeSlot s i w).cfgDir = s.cfgDir := by
  unfold writeSlot; split <;> rfl
@[simp] theorem writeSlot_keyValid (s : State) (i : BitVec 5) (w : Word) : (writeSlot s i w).keyValid = s.keyValid := by
  unfold writeSlot; split <;> rfl
@[simp] theorem writeSlot_ivValid (s : State) (i : BitVec 5) (w : Word) : (writeSlot s i w).ivValid = s.ivValid := by
  unfold writeSlot; split <;> rfl
@[simp] theorem writeSlot_err (s : State) (i : BitVec 5) (w : Word) : (writeSlot s i w).err = s.err := by
  unfold writeSlot; split <;> rfl
@[simp] theorem writeSlot_anyErr (s : State) (i : BitVec 5) (w : Word) : (writeSlot s i w).anyErr = s.anyErr := by
  unfold writeSlot; split <;> rfl
@[simp] theorem writeSlot_pending (s : State) (i : BitVec 5) (w : Word) : (writeSlot s i w).pending = s.pending := by
  unfold writeSlot; split <;> rfl
@[simp] theorem writeSlot_observed (s : State) (i : BitVec 5) (w : Word) : (writeSlot s i w).observed = s.observed := by
  unfold writeSlot; split <;> rfl

end Sys2Proof.Machine
end

