-- ==== Sys2Proof/Laws/Meanings.lean ====
section
/-! SUPPORT. What each shared operation and each meaning can do, once: the two ways a command ends, the slots of the window
by range, and every command's meaning by its cases. -/

namespace Sys2Proof.Machine

/-! ### The register map by range (spec/20_memory.md R52) -/

@[simp] theorem slotOf_cmd : slotOf 0 = .cmd := rfl

@[simp] theorem slotOf_status : slotOf 1 = .status := rfl

@[simp] theorem slotOf_config : slotOf 2 = .config := rfl

theorem slotOf_key (k : Fin 8) : slotOf (BitVec.ofNat 5 (4 + k)) = .key k := by revert k; decide

theorem slotOf_iv (k : Fin 4) : slotOf (BitVec.ofNat 5 (12 + k)) = .iv k := by revert k; decide

theorem slotOf_din (k : Fin 4) : slotOf (BitVec.ofNat 5 (16 + k)) = .din k := by revert k; decide

theorem slotOf_dout (k : Fin 4) : slotOf (BitVec.ofNat 5 (20 + k)) = .dout k := by revert k; decide

theorem slotOf_chain (k : Fin 4) : slotOf (BitVec.ofNat 5 (24 + k)) = .chain k := by revert k; decide

/-- Only slot 0 is CMD. -/
theorem slotOf_eq_cmd {idx : BitVec 5} : slotOf idx = .cmd ↔ idx = 0 := by revert idx; decide

/-! ### The commands by their cases -/

/-- SET_KEY with KLEN 3. -/
theorem execSetKey_badKeyLength (mode : BitVec 3) (dir : Dir) (s : State) :
    execSetKey 3 mode dir s = .next (cmdError .badKeyLength (dropKey (clearKey s))) := rfl

/-- SET_KEY with a legal KLEN and MODE 6 or 7. -/
theorem execSetKey_badMode (k : KeyLen) {mode : BitVec 3} (h : 5 < mode.toNat) (dir : Dir) (s : State) :
    execSetKey k.code mode dir s = .next (cmdError .badMode (dropKey (clearKey s))) := by
  simp [execSetKey, Mode.ofCode_eq_none.mpr h]

/-- SET_KEY with legal fields. -/
theorem execSetKey_ok (k : KeyLen) (m : Mode) (dir : Dir) (s : State) :
    execSetKey k.code m.code dir s = .next (cmdOk (installKey k m dir s.key (clearKey s))) := by
  simp [execSetKey]

/-- Everything SET_KEY can do. -/
theorem execSetKey_cases (klen : BitVec 2) (mode : BitVec 3) (dir : Dir) (s : State) :
    (klen = 3 ∧ execSetKey klen mode dir s = .next (cmdError .badKeyLength (dropKey (clearKey s))))
    ∨ (klen ≠ 3 ∧ 5 < mode.toNat ∧ execSetKey klen mode dir s = .next (cmdError .badMode (dropKey (clearKey s))))
    ∨ ∃ k m, klen = k.code ∧ mode = m.code
        ∧ execSetKey klen mode dir s = .next (cmdOk (installKey k m dir s.key (clearKey s))) := by
  unfold execSetKey
  split
  · next h => exact .inl ⟨KeyLen.ofCode_eq_none.mp h, rfl⟩
  · next k hk =>
    have hne : klen ≠ 3 := fun e => by simp [KeyLen.ofCode_eq_none.mpr e] at hk
    split
    · next hm => exact .inr (.inl ⟨hne, Mode.ofCode_eq_none.mp hm, rfl⟩)
    · next m hm => exact .inr (.inr ⟨k, m, KeyLen.ofCode_eq_some.mp hk, Mode.ofCode_eq_some.mp hm, rfl⟩)

/-- PROCESS_BLOCK without a key. -/
theorem processBlock_noKey (order : CounterOrder) {s : State} (h : s.keyValid = false) :
    processBlock order s = cmdError .noKey s := by simp [processBlock, h]

/-- PROCESS_BLOCK in a chained mode without an IV. -/
theorem processBlock_noIv (order : CounterOrder) {s : State} (hk : s.keyValid = true) (hm : s.cfgMode ≠ .ecb)
    (hi : s.ivValid = false) : processBlock order s = cmdError .noIv s := by simp [processBlock, hk, hm, hi]

/-- PROCESS_BLOCK with its preconditions met. -/
theorem processBlock_ok (order : CounterOrder) {s : State} (hk : s.keyValid = true)
    (hi : s.cfgMode = .ecb ∨ s.ivValid = true) :
    processBlock order s = cmdOk { s with dout := (chainStep order s).1, chain := (chainStep order s).2 } := by
  rcases hi with hi | hi <;> simp [processBlock, hk, hi]

/-- Everything a write to CMD can do: refuse an illegal word, or run the command of a legal one. -/
theorem runCommandWord_cases (cw : Word) (s : State) :
    (decodeCommand cw = .error .illegalCommand ∧ runCommandWord cw s = .next (cmdError .illegalCmd s))
    ∨ ∃ i, decodeCommand cw = .ok i ∧ (commandWord i).isSome ∧ runCommandWord cw s = exec i s := by
  unfold runCommandWord
  cases h : decodeCommand cw with
  | error e => exact .inl ⟨congrArg _ (error_of_decodeCommand h), rfl⟩
  | ok i =>
    have hc := commandWord_isSome_of_decodeCommand h
    refine .inr ⟨i, rfl, hc, ?_⟩
    cases i <;> first | rfl | simp [commandWord] at hc

end Sys2Proof.Machine
end

