-- ==== Sys2Proof/Laws/PerInstr.lean ====
section
/-! SUPPORT. Statements made of every instruction, one lemma per constructor. The family `PortDirection`: the `we` bit of an
instruction's transaction is 0 for a read and 1 for everything else (spec/30_encoding.md R80). -/

namespace Sys2Proof.Laws.PortDirection

/-- The `we` bit of the encoded transaction says whether the instruction is a read. -/
def Statement (i : Instr) : Prop := (encode i).getLsbD 37 = decide (∀ idx, i ≠ .hostRead idx)

theorem setKey (klen : BitVec 2) (mode : BitVec 3) (dir : Dir) : Statement (.setKey klen mode dir) := by
  simp [Statement, encode, commandTransaction]

theorem setIv : Statement .setIv := by simp [Statement, encode, commandTransaction]

theorem encryptBlock : Statement .encryptBlock := by simp [Statement, encode, commandTransaction]

theorem decryptBlock : Statement .decryptBlock := by simp [Statement, encode, commandTransaction]

theorem processBlock : Statement .processBlock := by simp [Statement, encode, commandTransaction]

theorem zeroize : Statement .zeroize := by simp [Statement, encode, commandTransaction]

theorem hostWrite (idx : BitVec 5) (wdata : Word) : Statement (.hostWrite idx wdata) := by
  simp [Statement, encode]

theorem hostRead (idx : BitVec 5) : Statement (.hostRead idx) := by simp [Statement, encode]

end Sys2Proof.Laws.PortDirection
end

