-- ==== Sys2Proof/Laws/Schedule.lean ====
section
/-! SUPPORT. The key schedule's own small facts: how long an expansion grows, that it keeps the words it has, what the
fixed-capacity array holds, and that a round key depends on its four words alone (spec/41_key_schedule.md R131, R133). -/

namespace Sys2Proof.Machine

@[simp] theorem length_extendWords (nk n : Nat) (w : List Word) : (extendWords nk n w).length = w.length + n := by
  induction n generalizing w with
  | zero => rfl
  | succ n ih => rw [extendWords, ih, List.length_append, List.length_singleton, Nat.add_right_comm, Nat.add_assoc]

/-- Appending words keeps those there are. -/
theorem extendWords_getElem?_of_lt (nk n : Nat) {w : List Word} {i : Nat} (h : i < w.length) :
    (extendWords nk n w)[i]? = w[i]? := by
  induction n generalizing w with
  | zero => rfl
  | succ n ih => rw [extendWords, ih (by simp; omega), List.getElem?_append_left h]

/-- Word i of the stored array is word i of the list, or 0 where the list has none. -/
theorem scheduleWord_storeSchedule (w : List Word) {i : Nat} (h : i < 60) :
    scheduleWord (storeSchedule w) i = w.getD i 0 := by
  simp [scheduleWord, storeSchedule, h]

/-- Two schedules with the same four words have the same round key. -/
theorem roundKey_congr {rk rk' : Schedule} {r : Nat}
    (h : ∀ i, 4 * r ≤ i → i < 4 * r + 4 → scheduleWord rk i = scheduleWord rk' i) : roundKey rk r = roundKey rk' r := by
  unfold roundKey
  rw [h _ (by omega) (by omega), h _ (by omega) (by omega), h _ (by omega) (by omega), h _ (by omega) (by omega)]

end Sys2Proof.Machine
end

