-- ==== Sys2Proof/Tests/Slice0.lean ====
section
/-! SUPPORT. The model's own tests: well-formedness, words written out from the spec's encodings, one step on small states with
results from spec/95_test_vectors.md, and for each obligation with hypotheses a witness that meets them. -/

namespace Sys2Proof.Tests

open Sys2Proof.Machine

/-! ### Helpers -/

/-- The next state has the property. -/
def nextHas (o : Host.Outcome State Fault Refusal) (p : State → Bool) : Bool :=
  match o with
  | .next t => p t
  | .fault _ => false
  | .refused _ => false

/-- The secret 000102...0f of V1, then 101112...1f. -/
def secretV1 : KeyRegs :=
  #v[0x03020100, 0x07060504, 0x0b0a0908, 0x0f0e0d0c, 0x13121110, 0x17161514, 0x1b1a1918, 0x1f1e1d1c]

/-- The plaintext block of V1. -/
def plainV1 : Block := ⟨0x33221100, 0x77665544, 0xbbaa9988, 0xffeeddcc⟩

/-- The ciphertext block of V1. -/
def cipherV1 : Block := ⟨0xd8e0c469, 0x30047b6a, 0x80b7cdd8, 0x5ac5b470⟩

/-- The state after SET_KEY with the secret of V1 from reset. -/
def keyed (k : KeyLen) (m : Mode) (d : Dir) : State := cmdOk (installKey k m d secretV1 State.reset)

/-- A state with both preconditions of a mode step, and nothing else. -/
def ready (m : Mode) (d : Dir) : State :=
  { State.reset with keyValid := true, ivValid := true, cfgMode := m, cfgDir := d }

/-! ### Well-formedness: the one check, and what it refuses -/

theorem test_wellFormed_refuses_command_spelled_as_write : wellFormed (.hostWrite 0 0x00000003) = false := by decide

theorem test_wellFormed_keeps_illegal_word : wellFormed (.hostWrite 0 0x00000012) = true := by decide

theorem test_wellFormed_keeps_other_slots : wellFormed (.hostWrite 4 0x00000003) = true := by decide

/-! ### Decoding words written out bit by bit (spec/30_encoding.md R70 to R74, R80): we, idx, wdata -/

theorem test_decode_setKey :
    decodeTransaction 0b1_00000_0000000000000000000_1_0_101_00_10_0001 = .setKey 2 5 .decrypt := by decide

theorem test_decode_setIv : decodeTransaction 0b1_00000_0000000000000000000000000000_0010 = .setIv := by decide

theorem test_decode_encryptBlock :
    decodeTransaction 0b1_00000_0000000000000000000000000000_0011 = .encryptBlock := by decide

theorem test_decode_decryptBlock :
    decodeTransaction 0b1_00000_0000000000000000000000000000_0100 = .decryptBlock := by decide

theorem test_decode_processBlock :
    decodeTransaction 0b1_00000_0000000000000000000000000000_0101 = .processBlock := by decide

theorem test_decode_zeroize : decodeTransaction 0b1_00000_0000000000000000000000000000_0110 = .zeroize := by decide

theorem test_decode_hostWrite :
    decodeTransaction 0b1_10011_11111111111011101101110111001100 = .hostWrite 19 0xffeeddcc := by decide

theorem test_decode_hostRead :
    decodeTransaction 0b0_11011_10101010101010101010101010101010 = .hostRead 27 := by decide

/-- Reserved words of V70 are refused by name, and so are bits that are no transaction (R76, R56). -/
theorem test_decode_refusals :
    decodeBits 32 0x00000007 = .error .illegalCommand ∧ decodeBits 32 0x00000801 = .error .illegalCommand
    ∧ decodeBits 32 0x80000003 = .error .illegalCommand ∧ decodeBits 16 0x0003 = .error .transactionForm
    ∧ decodeBits 40 0x4000000000 = .error .transactionForm := by decide

/-- Every row of the table decodes from its match bits. -/
theorem test_decodeTableWord :
    decodeTableWord 32 0x00000001 = some (.setKey 0 0 .encrypt) ∧ decodeTableWord 32 0x00000002 = some .setIv
    ∧ decodeTableWord 32 0x00000003 = some .encryptBlock ∧ decodeTableWord 32 0x00000004 = some .decryptBlock
    ∧ decodeTableWord 32 0x00000005 = some .processBlock ∧ decodeTableWord 32 0x00000006 = some .zeroize
    ∧ decodeTableWord 40 0x2000000000 = some (.hostWrite 0 0) ∧ decodeTableWord 40 0x0000000000 = some (.hostRead 0) := by
  decide

/-- LOADKEY and RDBLK expand to the transactions of program P1 (spec/95_test_vectors.md P1). -/
theorem test_pseudo_instructions :
    (loadKey [0x00, 0x01, 0x02, 0x03, 0x04, 0x05, 0x06, 0x07]).map encode = [0x2403020100, 0x2507060504]
    ∧ rdBlk.map encode = [0x1400000000, 0x1500000000, 0x1600000000, 0x1700000000] := by decide

/-! ### Primitives (spec/95_test_vectors.md V2 to V6) -/

theorem test_field : xtime 0xff = 0xe5 ∧ gfMul 0x02 0x87 = 0x15 ∧ gfMul 0x57 0x13 = 0xfe ∧ gfInv 0x53 = 0xca := by
  decide +kernel

theorem test_sbox : sbox 0x53 = 0xed ∧ sbox 0xff = 0x16 ∧ invSbox 0xed = 0x53 ∧ invSbox 0x63 = 0x00 := by decide

/-- The first inverse column of V5, 01000000 to 0e090d0b, and the column d4bf5d30 to 046681e5. -/
theorem test_columns : invMixColumn 0x00000001 = 0x0b0d090e ∧ mixColumn 0x305dbfd4 = 0xe5816604 := by decide +kernel

/-- V10, V18: ENC_RK[4] and ENC_RK[43] of the AES-128 secret, whatever KEY4..KEY7 hold. -/
theorem test_expansion_aes128 :
    (encSchedule .aes128 #v[0x16157e2b, 0xa6d2ae28, 0x8815f7ab, 0x3c4fcf09, 0xffffffff, 0xffffffff, 0xffffffff, 0xffffffff])[4]
      = 0x17fefaa0
    ∧ (encSchedule .aes128 #v[0x16157e2b, 0xa6d2ae28, 0x8815f7ab, 0x3c4fcf09, 0xffffffff, 0xffffffff, 0xffffffff, 0xffffffff])[43]
      = 0xa60c63b6 := by decide +kernel

/-- V6, V12: the midpoint word 12 and the last word of the AES-256 secret. -/
theorem test_expansion_aes256 :
    (encSchedule .aes256 #v[0x10eb3d60, 0xbe71ca15, 0xf0ae732b, 0x81777d85, 0x072c351f, 0xd708613b, 0xa310982d, 0xf4df1409])[12]
      = 0x1a9cb0a8
    ∧ (encSchedule .aes256 #v[0x10eb3d60, 0xbe71ca15, 0xf0ae732b, 0x81777d85, 0x072c351f, 0xd708613b, 0xa310982d, 0xf4df1409])[59]
      = 0x1e636c70 := by decide +kernel

/-- V13: the pre-mixed DEC_RK[4] of the AES-128 secret. -/
theorem test_decryption_schedule :
    (decSchedule .aes128 #v[0x16157e2b, 0xa6d2ae28, 0x8815f7ab, 0x3c4fcf09, 0, 0, 0, 0])[4] = 0x635a7b0c := by
  decide +kernel

/-- V52: the increment under both orders, f0f1...ff. -/
theorem test_counter :
    inc128 .byteBE ⟨0xf3f2f1f0, 0xf7f6f5f4, 0xfbfaf9f8, 0xfffefdfc⟩ = ⟨0xf3f2f1f0, 0xf7f6f5f4, 0xfbfaf9f8, 0x00fffdfc⟩
    ∧ inc128 .wordBE ⟨0xf3f2f1f0, 0xf7f6f5f4, 0xfbfaf9f8, 0xfffefdfc⟩ = ⟨0xf3f2f1f0, 0xf7f6f5f4, 0xfbfaf9f8, 0xfffefdfd⟩ := by
  decide

/-! ### One step per instruction (at most two each) -/

/-- V12: SET_KEY aes256, ecb, enc gives STATUS 1 and CONFIG 0x000e0020. -/
theorem test_setKey_status_config :
    nextHas (step (State.reset.withFetchWord 32 0x00000021)) (fun t => statusWord t = 0x1 ∧ configWord t = 0x000e0020) := by
  decide

/-- V70: KLEN 3 and MODE 6 together report BAD_KEY_LENGTH, and KEY is cleared (R213, R134). -/
theorem test_setKey_both_bad :
    nextHas (exec (.setKey 3 6 .encrypt) { State.reset with key := secretV1 })
      (fun t => statusWord t = 0x120 ∧ t.key = KeyRegs.zero) := by decide

/-- V30: SET_IV. -/
theorem test_setIv :
    nextHas (step ({ State.reset with iv := ⟨0x03020100, 0x07060504, 0x0b0a0908, 0x0f0e0d0c⟩ }.withFetchWord 32 2))
      (fun t => t.chain = ⟨0x03020100, 0x07060504, 0x0b0a0908, 0x0f0e0d0c⟩ ∧ statusWord t = 0x2) := by decide

/-- V1: the known answer. -/
theorem test_encryptBlock_known_answer :
    nextHas (exec .encryptBlock { keyed .aes128 .ecb .encrypt with din := plainV1 }) (fun t => t.dout = cipherV1) := by
  decide +kernel

/-- V70: no key. -/
theorem test_encryptBlock_noKey :
    nextHas (exec .encryptBlock { State.reset with din := plainV1 })
      (fun t => statusWord t = 0x140 ∧ t.dout = Block.zero) := by decide

/-- V1: the inverse of the known answer, in a configuration for another mode (V17). -/
theorem test_decryptBlock_known_answer :
    nextHas (exec .decryptBlock { keyed .aes128 .cbc .encrypt with din := cipherV1 }) (fun t => t.dout = plainV1) := by
  decide +kernel

/-- Program P2: the first block of an AES-256 CBC stream. -/
theorem test_processBlock_cbc :
    nextHas (exec .processBlock { keyed .aes256 .cbc .encrypt with
        ivValid := true, din := plainV1, chain := ⟨0x0c0d0e0f, 0x08090a0b, 0x04050607, 0x00010203⟩ })
      (fun t => t.dout = ⟨0x42ba1956, 0x76e6b3f9, 0x2d2c5661, 0xdceda5d0⟩ ∧ t.chain = t.dout) := by decide +kernel

/-- Program P4: a CTR block at the counter ff...ff wraps CHAIN to zero. -/
theorem test_processBlock_ctr_wrap :
    nextHas (exec .processBlock { keyed .aes128 .ctr .encrypt with
        ivValid := true, chain := ⟨0xffffffff, 0xffffffff, 0xffffffff, 0xffffffff⟩ })
      (fun t => t.dout = ⟨0x321f443c, 0x238207ce, 0x99a2d764, 0x13bb500e⟩ ∧ t.chain = Block.zero) := by decide +kernel

/-- V60: ZEROIZE keeps ANYERR and nothing else. -/
theorem test_zeroize :
    nextHas (exec .zeroize { ready .cbc .decrypt with nr := 10, dout := plainV1, iv := cipherV1, err := .noIv, anyErr := true })
      (fun t => statusWord t = 0x100 ∧ t = { State.reset with anyErr := true }) := by decide

/-- V80: a write to the read-only slot CHAIN0 is ignored. -/
theorem test_hostWrite_ignored :
    nextHas (step (State.reset.withFetchWord 40 0x3812345678)) (fun t => t = State.reset) := by decide

/-- V70: an illegal word written to CMD is recorded and stops nothing. -/
theorem test_hostWrite_illegal_command :
    nextHas (step (State.reset.withFetchWord 40 0x2000000071)) (fun t => statusWord t = 0x110) := by decide

/-- V80: DIN3 reads back, KEY0 reads 0. -/
theorem test_hostRead :
    nextHas (exec (.hostRead 19) { State.reset with din := plainV1 }) (fun t => t.observed = [0xffeeddcc])
    ∧ nextHas (exec (.hostRead 4) { State.reset with key := secretV1 }) (fun t => t.observed = [0]) := by decide

/-- R56: a two-byte access is refused by name. -/
theorem test_narrow_access_refused :
    step { State.reset with pending := [.byteAccess ⟨true, 16, 2, 0⟩] } = .refused .transactionForm := rfl

/-! ### Witnesses: states and operands that meet the hypotheses of each obligation -/

theorem witness_DecodeOfEncodeIsTheInstruction :
    wellFormed (.hostWrite 0 0) = true ∧ commandWord (.setKey 2 5 .decrypt) = some 0x1521 := by decide

/-- Illegal and legal words at the ends of each clause of R76. -/
theorem witness_IllegalWordsAreTheReservedOnes :
    illegalCommand 0x0 = true ∧ illegalCommand 0x7 = true ∧ illegalCommand 0xf = true ∧ illegalCommand 0x41 = true
    ∧ illegalCommand 0x801 = true ∧ illegalCommand 0x2001 = true ∧ illegalCommand 0x12 = true
    ∧ illegalCommand 0x80000006 = true ∧ illegalCommand 0x1731 = false ∧ illegalCommand 0x2 = false
    ∧ illegalCommand 0x6 = false := by decide

theorem witness_StepRunsTheDecodedInstruction :
    ({ State.reset with pending := [.transaction 0x2000000006] }).pending = .transaction 0x2000000006 :: []
    ∧ transactionOfBits 32 0x6 = some 0x2000000006 ∧ transactionOfBits 40 0x1400000000 = some 0x1400000000 := by decide

theorem witness_StepIdlesAndResets :
    State.reset.pending = [] ∧ ({ State.reset with pending := [.rst] }).pending = .rst :: [] := by decide

/-- The last offset that is a slot's, the first past the window, a misaligned and a narrow one. -/
theorem witness_OtherAccessFormsAreRefused :
    ({ State.reset with pending := [.byteAccess ⟨false, 124, 4, 0⟩] }).pending = .byteAccess ⟨false, 124, 4, 0⟩ :: []
    ∧ transactionOfAccess ⟨false, 124, 4, 0⟩ = some 0x1f00000000 ∧ transactionOfAccess ⟨false, 128, 4, 0⟩ = none
    ∧ transactionOfAccess ⟨false, 2, 4, 0⟩ = none ∧ transactionOfAccess ⟨true, 4, 1, 0⟩ = none := by decide

theorem witness_PackingIsLittleEndian :
    3 < 4 * [0x03020100#32].length ∧ 4 * 0 + 3 < [0x00#8, 0x01#8, 0x02#8, 0x03#8].length
    ∧ [0x00#8, 0x01#8, 0x02#8, 0x03#8].length % 4 = 0 ∧ 15 < 16 ∧ 31 < 32 ∧ 7 < keyWords .aes256 ∧ 14 < 15 := by decide

theorem witness_FieldInverse : (0x53 : Byte) ≠ 0 ∧ gfMul 0x53 0xca = 0x01 := by decide

/-- The last indices of the ranges over bits, bytes, rows, columns and constants. -/
theorem witness_PrimitiveRanges :
    (7 < 8) ∧ (15 < 16) ∧ (3 < 4) ∧ (2 ≤ 2) := by decide

/-- AES-256 at word 8 (a first word of a group), 12 (the midpoint), 59 (the last), each in one clause only. -/
theorem witness_KeyExpansionRecurrence :
    4 + 2 * KeyLen.aes256.code.toNat = 8 ∧ 8 % 8 = 0 ∧ 12 % 8 ≠ 0 ∧ 12 % 8 = 4 ∧ 59 % 8 ≠ 0 ∧ 59 % 8 ≠ 4
    ∧ 59 < 4 * (10 + 2 * KeyLen.aes256.code.toNat + 1) ∧ 59 < 60 := by decide

/-- Round keys 0 and N_r are unmixed, 1 and N_r - 1 are mixed. -/
theorem witness_DecryptionScheduleReversesAndMixes :
    0 ≤ rounds .aes128 ∧ ¬ (1 ≤ 0 ∧ 0 ≤ rounds .aes128 - 1) ∧ (1 ≤ 1 ∧ 1 ≤ rounds .aes128 - 1)
    ∧ (1 ≤ 9 ∧ 9 ≤ rounds .aes128 - 1) ∧ ¬ (1 ≤ 10 ∧ 10 ≤ rounds .aes128 - 1) := by decide

theorem witness_UnusedScheduleWordsAreZeroAndUnread :
    4 * (rounds .aes128 + 1) ≤ 44 ∧ 44 < 60 ∧ 4 * (rounds .aes192 + 1) ≤ 59
    ∧ (∀ i, i < 4 * (10 + 1) → scheduleWord Schedule.zero i = scheduleWord (Schedule.zero.set 44 1) i)
    ∧ ∀ i, i < 4 * (({ State.reset with nr := 10 }).nr.toNat + 1) →
        scheduleWord State.reset.encRk i = scheduleWord (Schedule.zero.set 44 1) i
        ∧ scheduleWord State.reset.decRk i = scheduleWord (Schedule.zero.set 59 1) i := by decide +kernel

theorem witness_SetKeyCommand : (2 : BitVec 2) ≠ 3 ∧ 5 < (6 : BitVec 3).toNat ∧ 5 < (7 : BitVec 3).toNat := by decide

theorem witness_SchedulesChangeOnlyBySetKeyAndZeroize :
    nextHas (exec .zeroize { State.reset with nr := 10 }) (fun t => t.nr ≠ 10)
    ∧ nextHas (step { State.reset with nr := 10, pending := [.transaction 0x2000000006] }) (fun t => t.nr ≠ 10)
    ∧ nextHas (step { State.reset with nr := 10, pending := [.rst] }) (fun t => t.nr ≠ 10) := by decide

theorem witness_BlockCommandsInvertEachOther :
    (keyed .aes192 .ecb .encrypt).keyValid = true ∧ HoldsSchedulesOf .aes192 secretV1 (keyed .aes192 .ecb .encrypt) := by
  simp [keyed, HoldsSchedulesOf]

theorem witness_BlockCommands :
    (ready .ecb .encrypt).keyValid = true ∧ State.reset.keyValid = false := by decide

theorem witness_ProcessBlockCommand :
    State.reset.keyValid = false
    ∧ ({ ready .cbc .encrypt with ivValid := false }).keyValid = true
    ∧ ({ ready .cbc .encrypt with ivValid := false }).cfgMode ≠ .ecb
    ∧ ({ ready .ecb .encrypt with ivValid := false }).cfgMode = .ecb ∧ (ready .ctr .encrypt).ivValid = true := by decide

/-- Every mode, with both preconditions. -/
theorem witness_ModeSteps :
    ∀ d : Bool, (ready .ecb (Dir.ofBit d)).cfgMode = .ecb ∧ (ready .cbc (Dir.ofBit d)).cfgMode = .cbc
      ∧ (ready .pcbc (Dir.ofBit d)).cfgMode = .pcbc ∧ (ready .cfb (Dir.ofBit d)).cfgMode = .cfb
      ∧ (ready .ofb (Dir.ofBit d)).cfgMode = .ofb ∧ (ready .ctr (Dir.ofBit d)).cfgMode = .ctr
      ∧ (ready .ctr (Dir.ofBit d)).keyValid = true ∧ (ready .ctr (Dir.ofBit d)).ivValid = true := by decide

theorem witness_FeedbackModesUseOnlyForward :
    (ready .cfb .decrypt).keyValid = true ∧ (ready .cfb .decrypt).ivValid = true
    ∧ ((ready .cfb .decrypt).cfgMode = .cfb ∨ (ready .cfb .decrypt).cfgMode = .ofb
        ∨ (ready .cfb .decrypt).cfgMode = .ctr) := by decide

theorem witness_StreamRoundTrip :
    let s : State := { keyed .aes128 .pcbc .encrypt with ivValid := true, chain := cipherV1 }
    let t : State := { keyed .aes128 .pcbc .decrypt with ivValid := true, chain := cipherV1 }
    HoldsSchedulesOf .aes128 secretV1 s ∧ HoldsSchedulesOf .aes128 secretV1 t ∧ s.keyValid = true ∧ t.keyValid = true
    ∧ (s.cfgMode = .ecb ∨ s.ivValid = true ∧ t.ivValid = true) ∧ s.cfgDir = .encrypt ∧ t.cfgDir = .decrypt ∧ t.cfgMode = s.cfgMode
    ∧ t.chain = s.chain := by
  simp [keyed, HoldsSchedulesOf]

/-- An ECB stream, without an IV. -/
theorem witness_StreamRoundTrip_ecb :
    let s : State := keyed .aes256 .ecb .encrypt
    let t : State := keyed .aes256 .ecb .decrypt
    HoldsSchedulesOf .aes256 secretV1 s ∧ HoldsSchedulesOf .aes256 secretV1 t ∧ s.keyValid = true ∧ t.keyValid = true
    ∧ (s.cfgMode = .ecb ∨ s.ivValid = true ∧ t.ivValid = true) ∧ s.ivValid = false ∧ s.cfgDir = .encrypt
    ∧ t.cfgDir = .decrypt ∧ t.cfgMode = s.cfgMode ∧ t.chain = s.chain := by
  simp [keyed, HoldsSchedulesOf]

theorem witness_CtrKeystream :
    (ready .ctr .decrypt).keyValid = true ∧ (ready .ctr .decrypt).ivValid = true
    ∧ (ready .ctr .decrypt).cfgMode = .ctr := by decide

theorem witness_DifferentIvsGiveDifferentBlocks :
    (ready .ofb .encrypt).keyValid = true ∧ (ready .ofb .encrypt).ivValid = true ∧ (ready .ofb .encrypt).cfgMode ≠ .ecb
    ∧ (ready .ofb .encrypt).cfgDir = .encrypt ∧ plainV1 ≠ (ready .ofb .encrypt).chain := by decide

theorem witness_EcbAndRawCommandsIgnoreChain :
    (Instr.decryptBlock = .encryptBlock ∨ Instr.decryptBlock = .decryptBlock
      ∨ (Instr.decryptBlock = .processBlock ∧ (ready .cbc .encrypt).cfgMode = .ecb))
    ∧ (Instr.processBlock = .encryptBlock ∨ Instr.processBlock = .decryptBlock
      ∨ (Instr.processBlock = .processBlock ∧ (ready .ecb .encrypt).cfgMode = .ecb)) := by decide

theorem witness_KeyChangeEndsTheStream : Mode.cbc ≠ .ecb := by decide

/-- A word that is not SET_KEY, SET_IV or ZEROIZE. -/
theorem witness_EveryCommandEndsByWritingStatus :
    (0x3 : Word).toNat % 16 ≠ 1 ∧ (0x3 : Word).toNat % 16 ≠ 2 ∧ (0x3 : Word).toNat % 16 ≠ 6 := by decide

/-- A SET_KEY refused for its length, and a block command refused for want of a key. -/
theorem witness_RefusedCommandsChangeOnlyStatus :
    nextHas (exec (.hostWrite 0 0x31) { State.reset with key := secretV1 }) (fun t => t.err = .badKeyLength)
    ∧ nextHas (exec (.hostWrite 0 0x3) State.reset) (fun t => t.err = .noKey) := by decide

/-- Each outcome of the priority chain is met. -/
theorem witness_FirstCauseIsReported :
    nextHas (exec (.hostWrite 0 0x71) State.reset) (fun t => t.err = .illegalCmd)
    ∧ nextHas (exec (.hostWrite 0 0x631) State.reset) (fun t => t.err = .badKeyLength)
    ∧ nextHas (exec (.hostWrite 0 0x601) State.reset) (fun t => t.err = .badMode)
    ∧ nextHas (exec (.hostWrite 0 0x5) { State.reset with cfgMode := .cbc }) (fun t => t.err = .noKey)
    ∧ nextHas (exec (.hostWrite 0 0x5) { ready .cbc .encrypt with ivValid := false }) (fun t => t.err = .noIv)
    ∧ nextHas (exec (.hostWrite 0 0x2) State.reset) (fun t => t.err = .ok) := by decide

/-- The ends of every range of slots. -/
theorem witness_RegisterMap :
    (4 ≤ (4 : BitVec 5).toNat ∧ (4 : BitVec 5).toNat ≤ 15) ∧ (4 ≤ (15 : BitVec 5).toNat ∧ (15 : BitVec 5).toNat ≤ 15)
    ∧ 28 ≤ (28 : BitVec 5).toNat ∧ 28 ≤ (31 : BitVec 5).toNat ∧ commandWord .zeroize = some 0x6
    ∧ (1 ≤ (1 : BitVec 5).toNat ∧ (3 : BitVec 5).toNat ≤ 3) ∧ 20 ≤ (20 : BitVec 5).toNat := by decide

theorem witness_HostAccessNeverFails :
    (4 : BitVec 5) ≠ 0 ∧ (3 : BitVec 5) ≠ 0 ∧ (3 : BitVec 5).toNat < 4 ∧ 20 ≤ (20 : BitVec 5).toNat
    ∧ 3 ≤ (15 : BitVec 5).toNat ∧ (15 : BitVec 5).toNat ≤ 15 ∧ 28 ≤ (28 : BitVec 5).toNat := by decide

theorem witness_ConfigLayout :
    ((3 : BitVec 2) = 3 ∨ 5 < (0 : BitVec 3).toNat) ∧ ((0 : BitVec 2) = 3 ∨ 5 < (6 : BitVec 3).toNat) := by decide

/-- Each clause of the frames: a command that is not ZEROIZE, one that fails, one in ECB, one that is not SET_KEY. -/
theorem witness_CommandFrames :
    nextHas (exec (.hostWrite 0 0x2) State.reset) (fun t => t.err = .ok)
    ∧ nextHas (exec (.hostWrite 0 0x5) State.reset) (fun t => t.err ≠ .ok)
    ∧ (0x5 : Word).toNat % 16 = 5 ∧ (ready .ecb .encrypt).cfgMode = .ecb := by decide

theorem witness_StepKeepsTheInvariant :
    Inv { keyed .aes256 .ctr .decrypt with pending := [.transaction 0x2000000002] }
    ∧ nextHas (step { keyed .aes256 .ctr .decrypt with pending := [.transaction 0x2000000002] })
        (fun t => t.ivValid) := by
  refine ⟨.inr ⟨secretV1, ?_⟩, by decide⟩
  simp [keyed, HoldsSchedulesOf]

theorem witness_InvariantAtResetAndItsMeaning :
    Inv (keyed .aes192 .ofb .encrypt) ∧ (keyed .aes192 .ofb .encrypt).keyValid = true := by
  refine ⟨.inr ⟨secretV1, ?_⟩, by decide⟩
  simp [keyed, HoldsSchedulesOf]

theorem witness_PhaseTransitions :
    phase State.reset = .unkeyed ∧ phase (ready .cbc .encrypt) = .streaming
    ∧ phase { ready .cbc .encrypt with ivValid := false } = .keyed
    ∧ ((3 : BitVec 2) = 3 ∨ 5 < (0 : BitVec 3).toNat) := by decide

theorem witness_ResetZeroesEveryRegister :
    ({ State.reset with din := plainV1, pending := [.rst] }).pending = .rst :: [] := by decide

theorem witness_CommandsAfterReset :
    (Instr.processBlock = .encryptBlock ∨ Instr.processBlock = .decryptBlock ∨ Instr.processBlock = .processBlock)
    ∧ (Instr.setIv = .setIv ∨ Instr.setIv = .zeroize) := by decide

/-- Two instances, one of which resets and the other of which waits. -/
theorem witness_InstancesAreIndependent :
    (0 : Nat) ≠ 1
    ∧ stepAt 0 [{ State.reset with pending := [.rst] }, State.reset] = .next [State.reset, State.reset]
    ∧ stepAt 1 [State.reset, State.reset] = .next [State.reset, State.reset]
    ∧ stepAt 1 [{ State.reset with pending := [.rst] }, State.reset]
        = .next [{ State.reset with pending := [.rst] }, State.reset] := ⟨by decide, rfl, rfl, rfl⟩

end Sys2Proof.Tests
end

section
/-! PROOFS. The two status views a host reads: every bit of STATUS and of CONFIG, the bits of the SET_KEY word that
CONFIG repeats, and what of CONFIG a refused SET_KEY leaves (spec/10_state.md R35, R36). -/

namespace Sys2Proof

/-! ### Fields of a word, bit by bit -/

/-- A field of a word is a value when its bits are the value's. -/
theorem extractLsb'_eq_of_getLsbD {w : Word} {start len : Nat} {v : BitVec len}
    (h : ∀ i, i < len → w.getLsbD (start + i) = v.getLsbD i) : w.extractLsb' start len = v :=
  BitVec.eq_of_getLsbD_eq fun i hi => by simpa [hi] using h i hi

theorem setKeyWord_getLsbD (klen : BitVec 2) (mode : BitVec 3) (dir : Dir) (i : Nat) :
    (setKeyWord klen mode dir).getLsbD i =
      if i < 4 then decide (i = 0) else if i < 8 then klen.getLsbD (i - 4)
      else if i < 12 then mode.getLsbD (i - 8) else dir.code.getLsbD (i - 12) := by
  have hk : 2 ≤ i - 4 → klen.getLsbD (i - 4) = false := BitVec.getLsbD_of_ge _ _
  have hm : 3 ≤ i - 8 → mode.getLsbD (i - 8) = false := BitVec.getLsbD_of_ge _ _
  have hd : 1 ≤ i - 12 → dir.code.getLsbD (i - 12) = false := BitVec.getLsbD_of_ge _ _
  simp only [setKeyWord, BitVec.getLsbD_or, BitVec.getLsbD_shiftLeft, BitVec.getLsbD_setWidth]
  grind

namespace Machine

theorem flagWord_getLsbD (b : Bool) (i : Nat) : (flagWord b).getLsbD i = (decide (i = 0) && b) := by
  simp only [flagWord, BitVec.getLsbD_setWidth, BitVec.getLsbD_ofBool]
  grind

theorem statusWord_getLsbD (s : State) (i : Nat) :
    (statusWord s).getLsbD i =
      if i = 0 then s.keyValid else if i = 1 then s.ivValid
      else if i < 4 then false else if i < 8 then s.err.code.getLsbD (i - 4) else decide (i = 8) && s.anyErr := by
  have he : 4 ≤ i - 4 → s.err.code.getLsbD (i - 4) = false := BitVec.getLsbD_of_ge _ _
  simp only [statusWord, flagWord_getLsbD, BitVec.getLsbD_or, BitVec.getLsbD_shiftLeft, BitVec.getLsbD_setWidth]
  grind

theorem configWord_getLsbD (s : State) (i : Nat) :
    (configWord s).getLsbD i =
      if i < 4 then false else if i < 8 then s.cfgKlen.code.getLsbD (i - 4)
      else if i < 12 then s.cfgMode.code.getLsbD (i - 8)
      else if i < 16 then s.cfgDir.code.getLsbD (i - 12) else s.nr.getLsbD (i - 16) := by
  have hk : 2 ≤ i - 4 → s.cfgKlen.code.getLsbD (i - 4) = false := BitVec.getLsbD_of_ge _ _
  have hm : 3 ≤ i - 8 → s.cfgMode.code.getLsbD (i - 8) = false := BitVec.getLsbD_of_ge _ _
  have hd : 1 ≤ i - 12 → s.cfgDir.code.getLsbD (i - 12) = false := BitVec.getLsbD_of_ge _ _
  have hn : 5 ≤ i - 16 → s.nr.getLsbD (i - 16) = false := BitVec.getLsbD_of_ge _ _
  simp only [configWord, BitVec.getLsbD_or, BitVec.getLsbD_shiftLeft, BitVec.getLsbD_setWidth]
  grind

/-! ### What a command leaves of CONFIG -/

@[simp] theorem configWord_clearKey (s : State) : configWord (clearKey s) = configWord s := rfl

@[simp] theorem configWord_dropKey (s : State) : configWord (dropKey s) = configWord s := rfl

@[simp] theorem configWord_cmdError (c : ErrCode) (s : State) : configWord (cmdError c s) = configWord s := rfl

/-- CONFIG shows KLEN, MODE and DIR at the bits where the SET_KEY word of the configuration has them (R36, R70). -/
theorem configWord_commandBits (s : State) :
    (configWord s).extractLsb' 4 9 = (setKeyWord s.cfgKlen.code s.cfgMode.code s.cfgDir).extractLsb' 4 9 := by
  refine extractLsb'_eq_of_getLsbD fun i hi => ?_
  rw [configWord_getLsbD, BitVec.getLsbD_extractLsb', setKeyWord_getLsbD]
  grind

/-! ### The instructions the two views speak of -/

theorem exec_setKey (klen : BitVec 2) (mode : BitVec 3) (dir : Dir) (s : State) :
    exec (.setKey klen mode dir) s = execSetKey klen mode dir s := rfl

theorem exec_hostRead (idx : BitVec 5) (s : State) :
    exec (.hostRead idx) s = .next (returnData (readSlot s idx) s) := rfl

@[simp] theorem readSlot_status (s : State) : readSlot s 1 = statusWord s := rfl

/-- SET_KEY with a reserved KLEN or MODE reports an error after it clears KEY and drops the key (R136). -/
theorem execSetKey_refused {klen : BitVec 2} {mode : BitVec 3} (h : klen = 3 ∨ 5 < mode.toNat) (dir : Dir) (s : State) :
    ∃ c, execSetKey klen mode dir s = .next (cmdError c (dropKey (clearKey s))) := by
  cases hk : KeyLen.ofCode klen with
  | none =>
    obtain rfl := KeyLen.ofCode_eq_none.mp hk
    exact ⟨.badKeyLength, execSetKey_badKeyLength mode dir s⟩
  | some k =>
    have hne : klen ≠ 3 := fun e => by simp [KeyLen.ofCode_eq_none.mpr e] at hk
    obtain rfl := KeyLen.ofCode_eq_some.mp hk
    exact ⟨.badMode, execSetKey_badMode k (h.resolve_left hne) dir s⟩

/-! ### The statements -/

/-- Settles O52: each field of STATUS by its bits, and the read of slot 1 by the meaning of HOST_READ. -/
theorem statusLayout : Obligations.StatusLayout := by
  refine ⟨fun s => ⟨statusWord_getLsbD s 0, statusWord_getLsbD s 1, ?reserved, ?err, statusWord_getLsbD s 8, ?high, ?read⟩,
    rfl, rfl, rfl, rfl, rfl, rfl⟩
  case read => rw [exec_hostRead, readSlot_status, returnData]
  all_goals
    refine extractLsb'_eq_of_getLsbD fun i hi => ?_
    rw [statusWord_getLsbD]
    grind

/-- The fields of CONFIG and its reserved bits (R36). -/
theorem configWord_fields (s : State) :
    (configWord s).extractLsb' 0 4 = 0 ∧ (configWord s).extractLsb' 4 2 = s.cfgKlen.code
    ∧ (configWord s).extractLsb' 6 2 = 0 ∧ (configWord s).extractLsb' 8 3 = s.cfgMode.code
    ∧ (configWord s).getLsbD 11 = false ∧ (configWord s).extractLsb' 12 1 = s.cfgDir.code
    ∧ (configWord s).extractLsb' 13 3 = 0 ∧ (configWord s).extractLsb' 16 5 = s.nr
    ∧ (configWord s).extractLsb' 21 11 = 0 := by
  refine ⟨?_, ?_, ?_, ?_, ?bit11, ?_, ?_, ?_, ?_⟩
  case bit11 => simpa using configWord_getLsbD s 11
  all_goals
    refine extractLsb'_eq_of_getLsbD fun i hi => ?_
    rw [configWord_getLsbD]
    grind

/-- Settles O53: the fields by their bits, a successful SET_KEY by the configuration it installs, and a refused one by what
dropping the key and reporting an error leave unchanged. -/
theorem configLayout : Obligations.ConfigLayout := by
  refine ⟨configWord_fields, fun k m dir s => ?accepted, fun klen mode dir s h => ?refused⟩
  case accepted =>
    refine ⟨_, (exec_setKey ..).trans (execSetKey_ok k m dir s), ?_⟩
    simpa using configWord_commandBits (cmdOk (installKey k m dir s.key (clearKey s)))
  case refused =>
    obtain ⟨c, hc⟩ := execSetKey_refused h dir s
    exact ⟨_, (exec_setKey ..).trans hc, by simp, by simp⟩

end Machine

end Sys2Proof
end

section
/-! PROOFS. The little-endian packing of bytes into words: the two maps byte by byte and word by word, and the same
packing of blocks, of the secret in KEY and of the round keys of a schedule (spec/20_memory.md R54). -/

namespace Sys2Proof

/-! ### A word as its four bytes -/

/-- A word is its four bytes as a little-endian number. -/
theorem toNat_eq_sum_byteOf (w : Word) :
    w.toNat = (byteOf w 0).toNat + (byteOf w 1).toNat * 2 ^ 8 + (byteOf w 2).toNat * 2 ^ 16
      + (byteOf w 3).toNat * 2 ^ 24 := by
  simp only [byteOf, BitVec.extractLsb'_toNat, Nat.shiftRight_eq_div_pow]
  omega

theorem toNat_packWord (b0 b1 b2 b3 : Byte) :
    (packWord b0 b1 b2 b3).toNat = b0.toNat + b1.toNat * 2 ^ 8 + b2.toNat * 2 ^ 16 + b3.toNat * 2 ^ 24 := by
  simpa using toNat_eq_sum_byteOf (packWord b0 b1 b2 b3)

/-! ### The two maps over lists -/

theorem wordsToBytes_getElem? (ws : List Word) {n : Nat} (h : n < 4 * ws.length) :
    (wordsToBytes ws)[n]? = some (byteOf (ws.getD (n / 4) 0) (n % 4)) := by
  induction ws generalizing n with
  | nil => simp at h
  | cons w ws ih =>
    match n with
    | 0 | 1 | 2 | 3 => rfl
    | n + 4 => simpa [wordsToBytes] using ih (n := n) (by simpa [Nat.mul_add] using h)

theorem wordsToBytes_getD (ws : List Word) {n : Nat} (h : n < 4 * ws.length) :
    (wordsToBytes ws).getD n 0 = byteOf (ws.getD (n / 4) 0) (n % 4) := by
  rw [List.getD_eq_getElem?_getD, wordsToBytes_getElem? ws h, Option.getD_some]

/-- Packing bytes 4k to 4k + 3 of a group gives back its word k. -/
theorem packWord_wordsToBytes (ws : List Word) {k : Nat} (h : k < ws.length) :
    packWord ((wordsToBytes ws).getD (4 * k) 0) ((wordsToBytes ws).getD (4 * k + 1) 0)
      ((wordsToBytes ws).getD (4 * k + 2) 0) ((wordsToBytes ws).getD (4 * k + 3) 0) = ws.getD k 0 := by
  have byte (j : Nat) (hj : j < 4) : (wordsToBytes ws).getD (4 * k + j) 0 = byteOf (ws.getD k 0) j := by
    rw [wordsToBytes_getD ws (by omega), Nat.mul_add_div (by decide), Nat.div_eq_of_lt hj, Nat.mul_add_mod,
      Nat.mod_eq_of_lt hj, Nat.add_zero]
  rw [← Nat.add_zero (4 * k), byte 0 (by decide), byte 1 (by decide), byte 2 (by decide), byte 3 (by decide),
    packWord_byteOf]

theorem bytesToWords_getElem? (bs : List Byte) {k : Nat} (h : 4 * k + 3 < bs.length) :
    (bytesToWords bs)[k]? = some (packWord (bs.getD (4 * k) 0) (bs.getD (4 * k + 1) 0) (bs.getD (4 * k + 2) 0)
      (bs.getD (4 * k + 3) 0)) := by
  induction bs using bytesToWords.induct generalizing k with
  | case1 b0 b1 b2 b3 bs ih =>
    cases k with
    | zero => rfl
    | succ k => simpa [bytesToWords, Nat.mul_add] using ih (k := k) (by simp at h; omega)
  | case2 bs hshort =>
    match bs with
    | b0 :: b1 :: b2 :: b3 :: bs => exact (hshort _ _ _ _ _ rfl).elim
    | [] | [_] | [_, _] | [_, _, _] => simp at h

theorem bytesToWords_wordsToBytes (ws : List Word) : bytesToWords (wordsToBytes ws) = ws := by
  induction ws with
  | nil => rfl
  | cons w ws ih => simp [wordsToBytes, bytesToWords, ih]

theorem wordsToBytes_bytesToWords {bs : List Byte} (h : bs.length % 4 = 0) : wordsToBytes (bytesToWords bs) = bs := by
  induction bs using bytesToWords.induct with
  | case1 b0 b1 b2 b3 bs ih => simp [wordsToBytes, bytesToWords, ih (by simp at h; omega)]
  | case2 bs hshort =>
    match bs with
    | b0 :: b1 :: b2 :: b3 :: bs => exact (hshort _ _ _ _ _ rfl).elim
    | [] => rfl
    | [_] | [_, _] | [_, _, _] => simp at h

/-! ### Blocks, the secret and the schedules -/

@[simp] theorem Block.words_getD (b : Block) (k : Nat) : b.words.getD k 0 = b.word k := by
  match k with
  | 0 | 1 | 2 | 3 | _ + 4 => rfl

theorem Block.wordsToBytes_words (b : Block) {n : Nat} (h : n < 16) : (wordsToBytes b.words)[n]? = some (b.byte n) := by
  rw [wordsToBytes_getElem? _ h, Block.words_getD, Block.byte]

namespace Machine

/-- The secret is no longer than KEY. -/
theorem keyWords_le_length (k : KeyLen) (key : KeyRegs) : keyWords k ≤ key.toList.length := by
  cases k <;> simp [keyWords]

/-- The expansion begins with the words of the secret (spec/41_key_schedule.md R131). -/
theorem expandKey_getElem? (k : KeyLen) (key : KeyRegs) {i : Nat} (h : i < keyWords k) :
    (expandKey k key)[i]? = some (key.toList.getD i 0) := by
  have hkey : i < key.toList.length := h.trans_le (keyWords_le_length k key)
  rw [expandKey, keyExpansion, extendWords_getElem?_of_lt _ _ (by simp at hkey ⊢; omega), List.getElem?_take_of_lt h,
    List.getD_eq_getElem _ _ hkey, List.getElem?_eq_getElem hkey]

theorem roundKey_word (rk : Schedule) (r : Nat) {j : Nat} (h : j < 4) :
    (roundKey rk r).word j = scheduleWord rk (4 * r + j) := by
  interval_cases j <;> rfl

theorem roundKey_byte (rk : Schedule) (r : Nat) {n : Nat} (h : n < 16) :
    (roundKey rk r).byte n = byteOf (scheduleWord rk (4 * r + n / 4)) (n % 4) := by
  rw [Block.byte, roundKey_word rk r (by omega)]

theorem scheduleWord_eq_getD (rk : Schedule) (i : Nat) : scheduleWord rk i = rk.toList.getD i 0 := by
  simp [scheduleWord]

/-- Byte n of round key r is byte 16r + n of the schedule's bytes. -/
theorem wordsToBytes_schedule (rk : Schedule) {r n : Nat} (hr : r < 15) (hn : n < 16) :
    (wordsToBytes rk.toList)[16 * r + n]? = some ((roundKey rk r).byte n) := by
  rw [wordsToBytes_getElem? _ (by simp; omega), roundKey_byte rk r hn, scheduleWord_eq_getD,
    show (16 * r + n) / 4 = 4 * r + n / 4 by omega, show (16 * r + n) % 4 = n % 4 by omega]

/-- Settles O9: each clause is the packing of a list of words, read at a byte or at a word, for the lists that a block, KEY
and a schedule are. -/
theorem packingIsLittleEndian : Obligations.PackingIsLittleEndian := by
  refine ⟨fun ws n h => wordsToBytes_getElem? ws h, fun bs k h => ?wordOfBytes, bytesToWords_wordsToBytes,
    fun bs h => wordsToBytes_bytesToWords h, fun b n h => ⟨rfl, b.wordsToBytes_words h⟩,
    fun f n h => Block.byte_ofBytes f h, fun f => rfl, fun key n h => ?keyByte, fun k key i h => ?secretWord,
    fun rk r n hr hn => ⟨wordsToBytes_schedule rk hr hn, roundKey_byte rk r hn⟩⟩
  case wordOfBytes => rw [bytesToWords_getElem? bs h, Option.map_some, toNat_packWord]
  case keyByte => simpa [byteOf] using wordsToBytes_getElem? key.toList (n := n) (by simpa using h)
  case secretWord =>
    have hkey : i < key.toList.length := h.trans_le (keyWords_le_length k key)
    exact (expandKey_getElem? k key h).trans (congrArg some (packWord_wordsToBytes key.toList hkey).symm)

end Machine

end Sys2Proof
end

section
/-! PROOFS. The host port: what a read of each slot returns and what a write to it does, and that no access but a write to
CMD changes STATUS (spec/20_memory.md R52, R53; spec/60_exceptions.md R216). -/

namespace Sys2Proof

/-! ### The words of the commands -/

/-- The fields of the SET_KEY word: OP, KLEN, MODE, DIR, and the reserved bits 0 (spec/30_encoding.md R70). -/
theorem setKeyWord_fields (klen : BitVec 2) (mode : BitVec 3) (dir : Dir) :
    (setKeyWord klen mode dir).extractLsb' 0 4 = 1 ∧ (setKeyWord klen mode dir).extractLsb' 4 2 = klen
    ∧ (setKeyWord klen mode dir).extractLsb' 6 2 = 0 ∧ (setKeyWord klen mode dir).extractLsb' 8 3 = mode
    ∧ (setKeyWord klen mode dir).getLsbD 11 = false ∧ (setKeyWord klen mode dir).getLsbD 12 = dir.code.getLsbD 0
    ∧ (setKeyWord klen mode dir).extractLsb' 13 19 = 0 := by
  refine ⟨?op, ?_, ?_, ?_, ?bit11, setKeyWord_getLsbD .., ?_⟩
  case bit11 => simpa using setKeyWord_getLsbD klen mode dir 11
  case op =>
    refine extractLsb'_eq_of_getLsbD fun i hi => ?_
    rw [setKeyWord_getLsbD]
    interval_cases i <;> rfl
  all_goals
    refine extractLsb'_eq_of_getLsbD fun i hi => ?_
    rw [setKeyWord_getLsbD]
    grind

/-- The word of SET_KEY is legal and decodes to its fields (spec/30_encoding.md R76, R77). -/
theorem decodeCommand_setKeyWord (klen : BitVec 2) (mode : BitVec 3) (dir : Dir) :
    decodeCommand (setKeyWord klen mode dir) = .ok (.setKey klen mode dir) := by
  obtain ⟨hop, hklen, hres6, hmode, hres11, hdir, hres13⟩ := setKeyWord_fields klen mode dir
  simp [decodeCommand, hop, hklen, hres6, hmode, hres11, hdir, hres13, -BitVec.getLsbD_eq_getElem]

/-- A command's word decodes to the command. -/
theorem decodeCommand_commandWord {i : Instr} {cw : Word} (h : commandWord i = some cw) : decodeCommand cw = .ok i := by
  cases i with
  | setKey klen mode dir => obtain rfl := Option.some.inj h; exact decodeCommand_setKeyWord klen mode dir
  | setIv | encryptBlock | decryptBlock | processBlock | zeroize => obtain rfl := Option.some.inj h; rfl
  | hostWrite | hostRead => cases h

namespace Machine

/-! ### Writes -/

theorem exec_hostWrite_cmd (cw : Word) (s : State) : exec (.hostWrite 0 cw) s = runCommandWord cw s := rfl

theorem exec_hostWrite {idx : BitVec 5} (h : idx ≠ 0) (w : Word) (s : State) :
    exec (.hostWrite idx w) s = .next (writeSlot s idx w) := if_neg h

/-- Writing a command's word to CMD runs the command (spec/30_encoding.md R77). -/
theorem exec_hostWrite_commandWord {i : Instr} {cw : Word} (h : commandWord i = some cw) (s : State) :
    exec (.hostWrite 0 cw) s = exec i s := by
  have hdec := decodeCommand_commandWord h
  rcases runCommandWord_cases cw s with ⟨herr, -⟩ | ⟨j, hj, -, hrun⟩
  · cases hdec.symm.trans herr
  · obtain rfl : i = j := Except.ok.inj (hdec.symm.trans hj)
    exact hrun

/-- The slots 0 to 3 and those from 20 on store nothing (R52). -/
theorem slotOf_of_storesNothing {idx : BitVec 5} (h : idx.toNat < 4 ∨ 20 ≤ idx.toNat) :
    slotOf idx = .cmd ∨ slotOf idx = .status ∨ slotOf idx = .config ∨ slotOf idx = .reserved
    ∨ (∃ k, slotOf idx = .dout k) ∨ ∃ k, slotOf idx = .chain k := by revert idx; decide

theorem writeSlot_of_storesNothing {idx : BitVec 5} (h : idx.toNat < 4 ∨ 20 ≤ idx.toNat) (w : Word) (s : State) :
    writeSlot s idx w = s := by
  rcases slotOf_of_storesNothing h with h | h | h | h | ⟨k, h⟩ | ⟨k, h⟩ <;> rw [writeSlot, h]

/-- A write to a slot other than CMD is the store, where there is one (R52). -/
theorem exec_hostWrite_of_slotOf {idx : BitVec 5} {slot : Slot} (h : slotOf idx = slot) (hne : slot ≠ .cmd) (w : Word)
    (s : State) : exec (.hostWrite idx w) s = .next (writeSlot s idx w) :=
  exec_hostWrite (fun e => hne (h.symm.trans (slotOf_eq_cmd.mpr e))) w s

theorem exec_hostWrite_key (k : Fin 8) (w : Word) (s : State) :
    exec (.hostWrite (BitVec.ofNat 5 (4 + k)) w) s = .next { s with key := s.key.set k w } := by
  rw [exec_hostWrite_of_slotOf (slotOf_key k) nofun, writeSlot, slotOf_key]

theorem exec_hostWrite_iv (k : Fin 4) (w : Word) (s : State) :
    exec (.hostWrite (BitVec.ofNat 5 (12 + k)) w) s = .next { s with iv := s.iv.setWord k w } := by
  rw [exec_hostWrite_of_slotOf (slotOf_iv k) nofun, writeSlot, slotOf_iv]

theorem exec_hostWrite_din (k : Fin 4) (w : Word) (s : State) :
    exec (.hostWrite (BitVec.ofNat 5 (16 + k)) w) s = .next { s with din := s.din.setWord k w } := by
  rw [exec_hostWrite_of_slotOf (slotOf_din k) nofun, writeSlot, slotOf_din]

/-! ### Reads -/

/-- CMD, KEY, IV and the reserved slots (R52). -/
theorem slotOf_of_readsZero {idx : BitVec 5} (h : idx.toNat = 0 ∨ 3 ≤ idx.toNat ∧ idx.toNat ≤ 15 ∨ 28 ≤ idx.toNat) :
    slotOf idx = .cmd ∨ slotOf idx = .reserved ∨ (∃ k, slotOf idx = .key k) ∨ ∃ k, slotOf idx = .iv k := by
  revert idx; decide

theorem readSlot_of_readsZero {idx : BitVec 5} (h : idx.toNat = 0 ∨ 3 ≤ idx.toNat ∧ idx.toNat ≤ 15 ∨ 28 ≤ idx.toNat)
    (s : State) : readSlot s idx = 0 := by
  rcases slotOf_of_readsZero h with h | h | ⟨k, h⟩ | ⟨k, h⟩ <;> rw [readSlot, h]

@[simp] theorem readSlot_config (s : State) : readSlot s 2 = configWord s := rfl

@[simp] theorem readSlot_din (s : State) (k : Fin 4) : readSlot s (BitVec.ofNat 5 (16 + k)) = s.din.word k := by
  rw [readSlot, slotOf_din]

@[simp] theorem readSlot_dout (s : State) (k : Fin 4) : readSlot s (BitVec.ofNat 5 (20 + k)) = s.dout.word k := by
  rw [readSlot, slotOf_dout]

@[simp] theorem readSlot_chain (s : State) (k : Fin 4) : readSlot s (BitVec.ofNat 5 (24 + k)) = s.chain.word k := by
  rw [readSlot, slotOf_chain]

/-- A read whose value is known appends it to what the host has observed (R57). -/
theorem exec_hostRead_of_readSlot {idx : BitVec 5} {v : Word} {s : State} (h : readSlot s idx = v) :
    exec (.hostRead idx) s = .next { s with observed := s.observed ++ [v] } := by
  rw [exec_hostRead, h, returnData]

/-! ### STATUS -/

/-- STATUS is a function of ANYERR, ERR, IV_VALID and KEY_VALID alone (R35). -/
theorem statusWord_congr {s t : State} (ha : t.anyErr = s.anyErr) (he : t.err = s.err) (hi : t.ivValid = s.ivValid)
    (hk : t.keyValid = s.keyValid) : statusWord t = statusWord s := by
  rw [statusWord, statusWord, ha, he, hi, hk]

@[simp] theorem statusWord_writeSlot (s : State) (idx : BitVec 5) (w : Word) :
    statusWord (writeSlot s idx w) = statusWord s := statusWord_congr (by simp) (by simp) (by simp) (by simp)

@[simp] theorem statusWord_returnData (v : Word) (s : State) : statusWord (returnData v s) = statusWord s := rfl

/-! ### The statements -/

/-- Settles O49: the reads by the value of their slot, the writes by what their slot stores, and CMD by the decoder. -/
theorem registerMap : Obligations.RegisterMap := by
  refine ⟨fun s => ⟨?cmd, exec_hostRead_of_readSlot (readSlot_status s), exec_hostRead_of_readSlot (readSlot_config s),
      ?reserved⟩,
    fun s idx h => exec_hostRead_of_readSlot (readSlot_of_readsZero (by omega) s),
    fun s k => ⟨exec_hostRead_of_readSlot (readSlot_din s k), exec_hostRead_of_readSlot (readSlot_dout s k),
      exec_hostRead_of_readSlot (readSlot_chain s k)⟩,
    fun s i cw h => exec_hostWrite_commandWord h s,
    fun s k w => exec_hostWrite_key k w s,
    fun s k w => ⟨exec_hostWrite_iv k w s, exec_hostWrite_din k w s⟩,
    fun s idx w h => ?ignored⟩
  case cmd | reserved => exact exec_hostRead_of_readSlot (readSlot_of_readsZero (by decide) s)
  case ignored =>
    have hne : idx ≠ 0 := by rintro rfl; simp at h
    rw [exec_hostWrite hne, writeSlot_of_storesNothing (by omega)]

/-- Settles O50: a write stores or is ignored, a read appends to the observation, and neither touches what STATUS shows. -/
theorem hostAccessNeverFails : Obligations.HostAccessNeverFails := by
  refine ⟨fun s idx w hne => ?write, fun s idx => ?read⟩
  case write =>
    exact ⟨_, exec_hostWrite hne w s, statusWord_writeSlot s idx w, fun h => writeSlot_of_storesNothing h w s⟩
  case read =>
    exact ⟨_, _, exec_hostRead idx s, rfl, statusWord_returnData _ s, fun h => readSlot_of_readsZero h s⟩

end Machine

end Sys2Proof
end


section
/-! PROOFS. The command words by their fields as numbers: which words are illegal, that the decoder refuses exactly these,
and which command each other word is (spec/30_encoding.md R76, R77). -/

namespace Sys2Proof

/-! ### The fields of a word as numbers -/

theorem extractLsb'_eq_iff {w : Word} {start len : Nat} {v : BitVec len} :
    w.extractLsb' start len = v ↔ w.toNat / 2 ^ start % 2 ^ len = v.toNat := by
  rw [← BitVec.toNat_inj, BitVec.extractLsb'_toNat, Nat.shiftRight_eq_div_pow]

theorem getLsbD_iff (w : Word) (i : Nat) : w.getLsbD i = true ↔ w.toNat / 2 ^ i % 2 = 1 := by
  rw [BitVec.getLsbD, Nat.testBit_eq_decide_div_mod_eq, decide_eq_true_iff]

/-- The illegal words by their fields as numbers (spec/30_encoding.md R76). -/
theorem illegalCommand_iff (cw : Word) :
    illegalCommand cw = true ↔
      (cw.toNat % 16 = 0 ∨ 7 ≤ cw.toNat % 16)
      ∨ (cw.toNat % 16 = 1 ∧ (cw.toNat / 64 % 4 ≠ 0 ∨ cw.toNat / 2048 % 2 ≠ 0 ∨ cw.toNat / 8192 ≠ 0))
      ∨ (2 ≤ cw.toNat % 16 ∧ cw.toNat % 16 ≤ 6 ∧ cw.toNat / 16 ≠ 0) := by
  simp only [illegalCommand, Bool.or_eq_true, Bool.and_eq_true, beq_iff_eq, bne_iff_ne, ne_eq, decide_eq_true_iff,
    BitVec.ofNat_eq_ofNat, extractLsb'_eq_iff, BitVec.extractLsb'_toNat, Nat.shiftRight_eq_div_pow, getLsbD_iff,
    BitVec.toNat_ofNat]
  omega

/-- The word of SET_KEY as the sum of its fields (spec/30_encoding.md R70). -/
theorem toNat_setKeyWord (klen : BitVec 2) (mode : BitVec 3) (dir : Dir) :
    (setKeyWord klen mode dir).toNat = 1 + 16 * klen.toNat + 256 * mode.toNat + 4096 * dir.code.toNat := by
  obtain ⟨hop, hklen, hres6, hmode, hres11, -, hres13⟩ := setKeyWord_fields klen mode dir
  have hdir : (setKeyWord klen mode dir).extractLsb' 12 1 = dir.code := by
    refine extractLsb'_eq_of_getLsbD fun i hi => ?_
    rw [setKeyWord_getLsbD]
    grind
  rw [← Bool.not_eq_true, getLsbD_iff] at hres11
  simp only [BitVec.ofNat_eq_ofNat, extractLsb'_eq_iff, BitVec.toNat_ofNat] at hop hklen hres6 hmode hdir hres13
  omega

/-! ### Illegal words -/

/-- The decoder refuses every illegal word (spec/30_encoding.md R76, R77). -/
theorem decodeCommand_of_illegalCommand {cw : Word} (h : illegalCommand cw = true) :
    decodeCommand cw = .error .illegalCommand := by
  rw [illegalCommand_iff] at h
  simp only [decodeCommand, ne_eq, BitVec.ofNat_eq_ofNat, extractLsb'_eq_iff, getLsbD_iff, BitVec.toNat_ofNat]
  rcases h with hop | ⟨hop, hres⟩ | ⟨hlow, hop, hres⟩
  · rw [if_neg (by omega), if_neg (by omega)]
  · rw [if_pos (by omega), if_pos (by omega)]
  · rw [if_neg (by omega), if_pos (by omega), if_pos (by omega)]

/-! ### Legal words -/

/-- A word with OP 1 and its reserved bits 0 is the word of the SET_KEY with its fields (spec/30_encoding.md R70, R76). -/
theorem commandWord_setKey_of_fields {cw : Word} (hop : cw.toNat % 16 = 1)
    (hres : ¬ (cw.toNat / 64 % 4 ≠ 0 ∨ cw.toNat / 2048 % 2 ≠ 0 ∨ cw.toNat / 8192 ≠ 0)) :
    commandWord (.setKey (BitVec.ofNat 2 (cw.toNat / 16)) (BitVec.ofNat 3 (cw.toNat / 256))
      (if cw.toNat / 4096 % 2 = 0 then .encrypt else .decrypt)) = some cw := by
  refine congrArg some (BitVec.eq_of_toNat_eq ?_)
  have hdir : (if cw.toNat / 4096 % 2 = 0 then Dir.encrypt else .decrypt).code.toNat = cw.toNat / 4096 % 2 := by
    split_ifs with hbit
    · exact hbit.symm
    · exact (Nat.mod_two_ne_zero.mp hbit).symm
  rw [toNat_setKeyWord, hdir, BitVec.toNat_ofNat, BitVec.toNat_ofNat]
  omega

/-- A word with nothing above OP is the word of the command whose word is that OP (spec/30_encoding.md R71, R76). -/
theorem commandWord_of_op {cw : Word} {i : Instr} {op : Nat} (hop : cw.toNat % 16 = op) (hhigh : cw.toNat / 16 = 0)
    (hi : commandWord i = some (BitVec.ofNat 32 op)) : commandWord i = some cw := by
  rw [hi]
  refine congrArg some (BitVec.eq_of_toNat_eq ?_)
  rw [BitVec.toNat_ofNat]
  omega

/-- Every word that is not illegal is a command's word (spec/30_encoding.md R76). -/
theorem exists_commandWord_of_legal {cw : Word} (h : illegalCommand cw = false) : ∃ i, commandWord i = some cw := by
  rw [← Bool.not_eq_true, illegalCommand_iff] at h
  by_cases hsetKey : cw.toNat % 16 = 1
  · exact ⟨_, commandWord_setKey_of_fields hsetKey fun hres => h (.inr (.inl ⟨hsetKey, hres⟩))⟩
  · have hhigh : cw.toNat / 16 = 0 := by omega
    have hop : cw.toNat % 16 = 2 ∨ cw.toNat % 16 = 3 ∨ cw.toNat % 16 = 4 ∨ cw.toNat % 16 = 5 ∨ cw.toNat % 16 = 6 := by
      omega
    rcases hop with hop | hop | hop | hop | hop
    · exact ⟨.setIv, commandWord_of_op hop hhigh rfl⟩
    · exact ⟨.encryptBlock, commandWord_of_op hop hhigh rfl⟩
    · exact ⟨.decryptBlock, commandWord_of_op hop hhigh rfl⟩
    · exact ⟨.processBlock, commandWord_of_op hop hhigh rfl⟩
    · exact ⟨.zeroize, commandWord_of_op hop hhigh rfl⟩

namespace Machine

/-- A write of an illegal word to CMD is recorded in ERR and ANYERR and changes nothing else (spec/30_encoding.md R76). -/
theorem exec_hostWrite_illegalCommand {cw : Word} (h : illegalCommand cw = true) (s : State) :
    exec (.hostWrite 0 cw) s = .next { s with err := .illegalCmd, anyErr := true } := by
  rcases runCommandWord_cases cw s with ⟨-, hrun⟩ | ⟨i, hdec, -⟩
  · exact hrun
  · cases (decodeCommand_of_illegalCommand h).symm.trans hdec

/-! ### The statements -/

/-- Settles O4: the decoder refuses the illegal words, and a legal word is the word of a command, which the decoder gives
back; a second command with that word would be decoded from it too. -/
theorem illegalWordsAreTheReservedOnes : Obligations.IllegalWordsAreTheReservedOnes := by
  intro cw
  dsimp only
  rw [← illegalCommand_iff]
  refine ⟨fun h => ⟨decodeCommand_of_illegalCommand h, exec_hostWrite_illegalCommand h⟩, fun h => ?legal⟩
  case legal =>
    obtain ⟨i, hi⟩ := exists_commandWord_of_legal (Bool.eq_false_iff.mpr h)
    have hdec := decodeCommand_commandWord hi
    exact ⟨i, hdec, hi, fun j hj => Except.ok.inj ((decodeCommand_commandWord hj).symm.trans hdec)⟩

/-- Settles O5: in each branch the word is an illegal one, or the word of the command the branch runs. -/
theorem commandWriteRunsTheDecodedCommand : Obligations.CommandWriteRunsTheDecodedCommand := by
  intro cw s
  have refused (h) := exec_hostWrite_illegalCommand ((illegalCommand_iff cw).mpr h) s
  have runs {i} (h : commandWord i = some cw) : exec (.hostWrite 0 cw) s = exec i s := exec_hostWrite_commandWord h s
  dsimp only
  split
  next hsetKey =>
    split
    next hres => exact refused (.inr (.inl ⟨hsetKey, hres⟩))
    next hres => exact runs (commandWord_setKey_of_fields hsetKey hres)
  next hsetKey =>
    split_ifs with hop hres h2 h3 h4 h5
    · exact refused (.inr (.inr ⟨hop.1, hop.2, hres⟩))
    · exact runs (commandWord_of_op h2 (not_not.mp hres) rfl)
    · exact runs (commandWord_of_op h3 (not_not.mp hres) rfl)
    · exact runs (commandWord_of_op h4 (not_not.mp hres) rfl)
    · exact runs (commandWord_of_op h5 (not_not.mp hres) rfl)
    · exact runs (commandWord_of_op (op := 6) (by omega) (not_not.mp hres) rfl)
    · exact refused (.inl (by omega))

end Machine

end Sys2Proof
end

section
/-! PROOFS. The field GF(2^8), its inverse and the two S-boxes (spec/40_aes_primitives.md R101 to R104). A byte is a sum of
powers of x, and the product is linear in each factor, so the laws of the product need only be seen on 1 and under xtime.
The inverse is Fermat's: a^256 = a for every byte, and one table shows that every nonzero byte has a partner. -/

namespace Sys2Proof.Machine

/-! ### A term of a sum over bits -/

/-- `c · a` for a bit c: the term that bit contributes to a product. -/
def scaleBit (c : Bool) (a : Byte) : Byte := if c then a else 0

theorem scaleBit_xor_bit (c d : Bool) (a : Byte) : scaleBit (c ^^ d) a = scaleBit c a ^^^ scaleBit d a := by
  cases c <;> cases d <;> simp [scaleBit]

theorem scaleBit_xor (c : Bool) (a b : Byte) : scaleBit c (a ^^^ b) = scaleBit c a ^^^ scaleBit c b := by
  cases c <;> simp [scaleBit]

theorem scaleBit_getLsbD (c : Bool) (a : Byte) (i : Nat) : (scaleBit c a).getLsbD i = (c && a.getLsbD i) := by
  cases c <;> simp [scaleBit]

/-! ### Multiplication by x -/

theorem xtime_eq (a : Byte) : xtime a = a <<< 1 ^^^ scaleBit (a.getLsbD 7) 0x1b := rfl

theorem xtime_xor (a b : Byte) : xtime (a ^^^ b) = xtime a ^^^ xtime b := by
  simp only [xtime_eq, BitVec.shiftLeft_xor_distrib, BitVec.getLsbD_xor, scaleBit_xor_bit]
  ac_rfl

theorem xtime_zero : xtime 0#8 = 0#8 := rfl

theorem xtime_scaleBit (c : Bool) (a : Byte) : xtime (scaleBit c a) = scaleBit c (xtime a) := by
  cases c
  · exact xtime_zero
  · rfl

theorem xtimePow_succ (i : Nat) (a : Byte) : xtimePow (i + 1) a = xtime (xtimePow i a) := rfl

theorem xtimePow_eq_iterate (i : Nat) (a : Byte) : xtimePow i a = xtime^[i] a := by
  induction i with
  | zero => rfl
  | succ i ih => rw [xtimePow_succ, ih, Function.iterate_succ_apply']

theorem xtimePow_xtime (i : Nat) (a : Byte) : xtimePow i (xtime a) = xtime (xtimePow i a) := by
  rw [← xtimePow_succ, xtimePow_eq_iterate, xtimePow_eq_iterate, Function.iterate_succ_apply]

theorem xtimePow_xor (i : Nat) (a b : Byte) : xtimePow i (a ^^^ b) = xtimePow i a ^^^ xtimePow i b := by
  induction i with
  | zero => rfl
  | succ i ih => simp only [xtimePow_succ, ih, xtime_xor]

/-- Below the degree of the polynomial no power of x is reduced: it is a single bit. -/
theorem xtimePow_one : ∀ i < 8, xtimePow i 1#8 = BitVec.twoPow 8 i := by decide

/-! ### The product is linear in each factor -/

theorem gfMul_eq_foldl (a b : Byte) :
    gfMul a b = (List.range 8).foldl (fun acc i => acc ^^^ scaleBit (b.getLsbD i) (xtimePow i a)) 0 := by
  unfold gfMul scaleBit
  congr 1
  funext acc i
  split <;> simp

theorem gfMul_eq_sum (a b : Byte) :
    gfMul a b = scaleBit (b.getLsbD 0) (xtimePow 0 a) ^^^ scaleBit (b.getLsbD 1) (xtimePow 1 a)
      ^^^ scaleBit (b.getLsbD 2) (xtimePow 2 a) ^^^ scaleBit (b.getLsbD 3) (xtimePow 3 a)
      ^^^ scaleBit (b.getLsbD 4) (xtimePow 4 a) ^^^ scaleBit (b.getLsbD 5) (xtimePow 5 a)
      ^^^ scaleBit (b.getLsbD 6) (xtimePow 6 a) ^^^ scaleBit (b.getLsbD 7) (xtimePow 7 a) := by
  simpa [List.range, List.range.loop] using gfMul_eq_foldl a b

theorem gfMul_eq_foldr (a b : Byte) :
    gfMul a b = (List.range 8).foldr (fun i acc => (if b.getLsbD i then xtime^[i] a else 0) ^^^ acc) 0 := by
  simp [gfMul_eq_sum, scaleBit, ← xtimePow_eq_iterate, List.range, List.range.loop, BitVec.xor_assoc]

theorem gfMul_xor_left (a b c : Byte) : gfMul (a ^^^ b) c = gfMul a c ^^^ gfMul b c := by
  simp only [gfMul_eq_sum, xtimePow_xor, scaleBit_xor]
  ac_rfl

theorem gfMul_xor_right (a b c : Byte) : gfMul a (b ^^^ c) = gfMul a b ^^^ gfMul a c := by
  simp only [gfMul_eq_sum, BitVec.getLsbD_xor, scaleBit_xor_bit]
  ac_rfl

theorem gfMul_xtime_left (a b : Byte) : gfMul (xtime a) b = xtime (gfMul a b) := by
  simp only [gfMul_eq_sum, xtimePow_xtime, xtime_xor, xtime_scaleBit]

@[simp] theorem gfMul_zero_left (b : Byte) : gfMul 0#8 b = 0#8 := by
  simpa using gfMul_xor_left 0 0 b

@[simp] theorem gfMul_zero_right (a : Byte) : gfMul a 0#8 = 0#8 := by
  simpa using gfMul_xor_right a 0 0

@[simp] theorem gfMul_one_right (a : Byte) : gfMul a 1#8 = a := by
  simp [gfMul_eq_sum, scaleBit, xtimePow]

@[simp] theorem gfMul_one_left (b : Byte) : gfMul 1#8 b = b := by
  refine BitVec.eq_of_getLsbD_eq fun i hi => ?_
  simp only [gfMul_eq_sum, xtimePow_one, Nat.reduceLT, BitVec.getLsbD_xor, scaleBit_getLsbD, BitVec.getLsbD_twoPow]
  interval_cases i <;> simp

/-! ### The laws of the product -/

/-- Every byte is a sum of powers of x: what holds of 0 and 1 and is kept by xtime and by ⊕ holds of every byte. -/
theorem byte_induction {P : Byte → Prop} (zero : P 0#8) (one : P 1#8) (mulX : ∀ a, P a → P (xtime a))
    (add : ∀ a b, P a → P b → P (a ^^^ b)) (b : Byte) : P b := by
  have pow (i : Nat) : P (xtimePow i 1#8) := by
    induction i with
    | zero => exact one
    | succ i ih => exact mulX _ ih
  have term (i : Nat) : P (scaleBit (b.getLsbD i) (xtimePow i 1#8)) := by
    cases b.getLsbD i
    · exact zero
    · exact pow i
  rw [← gfMul_one_left b, gfMul_eq_sum]
  iterate 7 refine add _ _ ?_ (term _)
  exact term 0

theorem gfMul_xtime_right (a b : Byte) : gfMul a (xtime b) = xtime (gfMul a b) := by
  induction a using byte_induction with
  | zero => rw [gfMul_zero_left, gfMul_zero_left, xtime_zero]
  | one => rw [gfMul_one_left, gfMul_one_left]
  | mulX a ih => rw [gfMul_xtime_left, gfMul_xtime_left, ih]
  | add a c iha ihc => rw [gfMul_xor_left, gfMul_xor_left, xtime_xor, iha, ihc]

theorem gfMul_comm (a b : Byte) : gfMul a b = gfMul b a := by
  induction a using byte_induction with
  | zero => rw [gfMul_zero_left, gfMul_zero_right]
  | one => rw [gfMul_one_left, gfMul_one_right]
  | mulX a ih => rw [gfMul_xtime_left, gfMul_xtime_right, ih]
  | add a c iha ihc => rw [gfMul_xor_left, gfMul_xor_right, iha, ihc]

theorem gfMul_assoc (a b c : Byte) : gfMul (gfMul a b) c = gfMul a (gfMul b c) := by
  induction a using byte_induction with
  | zero => simp only [gfMul_zero_left]
  | one => simp only [gfMul_one_left]
  | mulX a ih => simp only [gfMul_xtime_left, ih]
  | add a d iha ihd => simp only [gfMul_xor_left, iha, ihd]

theorem getLsbD_seven (a : Byte) : a.getLsbD 7 = decide (a.toNat / 128 = 1) := by
  have hlt := a.isLt
  rw [BitVec.getLsbD, Nat.testBit_eq_decide_div_mod_eq]
  grind

/-- Settles O10: the laws on sums of powers of x, and xtime with bit 7 read as the quotient by 128. -/
theorem fieldProductLaws : Obligations.FieldProductLaws := by
  refine ⟨fun a => ?shift, gfMul_eq_foldr, gfMul_comm, gfMul_assoc, gfMul_xor_right, gfMul_one_left, ?examples⟩
  case shift => simp only [xtime, getLsbD_seven, decide_eq_true_eq]
  case examples => decide

/-! ### Powers -/

/-- a^n under `•`. -/
def gfPow (a : Byte) (n : Nat) : Byte := (gfMul a)^[n] 1

theorem gfPow_zero (a : Byte) : gfPow a 0 = 1#8 := rfl

theorem gfPow_succ (a : Byte) (n : Nat) : gfPow a (n + 1) = gfMul a (gfPow a n) := Function.iterate_succ_apply' ..

theorem gfPow_add (a : Byte) (m n : Nat) : gfPow a (m + n) = gfMul (gfPow a m) (gfPow a n) := by
  induction m with
  | zero => rw [Nat.zero_add, gfPow_zero, gfMul_one_left]
  | succ m ih => rw [Nat.add_right_comm, gfPow_succ, gfPow_succ, ih, gfMul_assoc]

theorem gfSquares_succ (k : Nat) (a : Byte) : gfSquares (k + 1) a = gfMul (gfSquares k a) (gfSquares k a) := rfl

theorem gfSquares_eq_gfPow (k : Nat) (a : Byte) : gfSquares k a = gfPow a (2 ^ k) := by
  induction k with
  | zero => exact (gfMul_one_right a).symm
  | succ k ih => rw [gfSquares_succ, ih, ← gfPow_add, ← Nat.two_mul, Nat.pow_succ']

theorem gfInv_eq_gfPow (a : Byte) : gfInv a = gfPow a 254 := by
  simp only [gfInv, gfSquares_eq_gfPow, ← gfPow_add, Nat.reducePow, Nat.reduceAdd]

theorem gfMul_gfMul_gfMul_comm (a b c d : Byte) :
    gfMul (gfMul a b) (gfMul c d) = gfMul (gfMul a c) (gfMul b d) := by
  rw [gfMul_assoc, gfMul_assoc, ← gfMul_assoc b, gfMul_comm b c, gfMul_assoc c]

theorem gfSquares_gfMul (k : Nat) (a b : Byte) : gfSquares k (gfMul a b) = gfMul (gfSquares k a) (gfSquares k b) := by
  induction k with
  | zero => rfl
  | succ k ih => rw [gfSquares_succ, ih, gfMul_gfMul_gfMul_comm, ← gfSquares_succ, ← gfSquares_succ]

/-- Squaring is additive, its two mixed terms being equal, and so is every power of it. -/
theorem gfSquares_xor (k : Nat) (a b : Byte) : gfSquares k (a ^^^ b) = gfSquares k a ^^^ gfSquares k b := by
  induction k with
  | zero => rfl
  | succ k ih =>
    simp only [gfSquares_succ, ih, gfMul_xor_left, gfMul_xor_right, gfMul_comm (gfSquares k b) (gfSquares k a)]
    simp [BitVec.xor_assoc]

theorem xtime_eq_gfMul (a : Byte) : xtime a = gfMul (xtime 1#8) a := by
  rw [gfMul_xtime_left, gfMul_one_left]

/-- a^256 = a: the map is additive and multiplicative, and leaves x as it is. -/
theorem gfSquares_eight (a : Byte) : gfSquares 8 a = a := by
  induction a using byte_induction with
  | zero => decide
  | one => decide
  | mulX a ih =>
    have hx : gfSquares 8 (xtime 1#8) = xtime 1#8 := by decide
    rw [xtime_eq_gfMul, gfSquares_gfMul, ih, hx]
  | add a b iha ihb => rw [gfSquares_xor, iha, ihb]

/-! ### The inverse -/

/-- A byte with a partner, a • b = 1, has a^255 = 1. -/
theorem gfPow_255_of_gfMul_eq_one {a b : Byte} (h : gfMul a b = 1#8) : gfPow a 255 = 1#8 :=
  calc gfPow a 255
    _ = gfMul (gfPow a 255) (gfMul a b) := by rw [h, gfMul_one_right]
    _ = gfMul (gfPow a (255 + 1)) b := by rw [← gfMul_assoc, gfMul_comm _ a, ← gfPow_succ]
    _ = 1#8 := by rw [show 255 + 1 = 2 ^ 8 from rfl, ← gfSquares_eq_gfPow, gfSquares_eight, h]

theorem gfMul_gfInv_of_gfMul_eq_one {a b : Byte} (h : gfMul a b = 1#8) : gfMul a (gfInv a) = 1#8 := by
  rw [gfInv_eq_gfPow, ← gfPow_succ, gfPow_255_of_gfMul_eq_one h]

theorem eq_gfInv_of_gfMul_eq_one {a b : Byte} (h : gfMul a b = 1#8) : b = gfInv a :=
  calc b
    _ = gfMul (gfMul a (gfInv a)) b := by rw [gfMul_gfInv_of_gfMul_eq_one h, gfMul_one_left]
    _ = gfMul (gfInv a) (gfMul a b) := by rw [gfMul_comm a, gfMul_assoc]
    _ = gfInv a := by rw [h, gfMul_one_right]

theorem gfInv_zero : gfInv 0#8 = 0#8 := by
  rw [gfInv_eq_gfPow, gfPow_succ, gfMul_zero_left]

/-- The affine map read backwards: bit i is y[i+2] ⊕ y[i+5] ⊕ y[i+7] ⊕ d[i], d = 0x05. -/
def unaffine (y : Byte) : Byte := y.rotateRight 2 ^^^ y.rotateRight 5 ^^^ y.rotateRight 7 ^^^ 0x05

theorem affine_unaffine : ∀ y : Byte, affine (unaffine y) = y := by decide +kernel

/-- The table of R103, through the affine map backwards, holds a partner of every nonzero byte. -/
theorem gfMul_unaffine_sbox : ∀ a : Byte, a ≠ 0 → gfMul a (unaffine (sbox a)) = 1#8 := by decide +kernel

theorem gfInv_eq_unaffine_sbox (a : Byte) : gfInv a = unaffine (sbox a) := by
  by_cases ha : a = 0
  · rw [ha]
    exact gfInv_zero.trans (by decide)
  · exact (eq_gfInv_of_gfMul_eq_one (gfMul_unaffine_sbox a ha)).symm

/-- Settles O11: the table gives every nonzero byte a partner, and a partner is the 254th power. -/
theorem fieldInverse : Obligations.FieldInverse := by
  refine ⟨fun a ha => ⟨gfMul_gfInv_of_gfMul_eq_one (gfMul_unaffine_sbox a ha), fun b => eq_gfInv_of_gfMul_eq_one⟩,
    gfInv_zero, gfInv_eq_gfPow, ?known⟩
  case known => exact (eq_gfInv_of_gfMul_eq_one (by decide)).symm

/-! ### The S-boxes -/

theorem rotateRight_getLsbD (b : Byte) {k i : Nat} (hk : k < 8) (hi : i < 8) :
    (b.rotateRight k).getLsbD i = b.getLsbD ((i + k) % 8) := by
  rw [BitVec.getLsbD_rotateRight, Nat.mod_eq_of_lt hk]
  grind

theorem affine_getLsbD (b : Byte) {i : Nat} (h : i < 8) :
    (affine b).getLsbD i =
      (b.getLsbD i ^^ b.getLsbD ((i + 4) % 8) ^^ b.getLsbD ((i + 5) % 8) ^^ b.getLsbD ((i + 6) % 8)
        ^^ b.getLsbD ((i + 7) % 8) ^^ (0x63 : Byte).getLsbD i) := by
  simp only [affine, BitVec.getLsbD_xor, rotateRight_getLsbD b _ h, Nat.reduceLT]

/-- Settles O12: the inverse is the table's entry through the affine map backwards. -/
theorem sboxTableIsAffineOfInverse : Obligations.SboxTableIsAffineOfInverse := by
  refine ⟨fun a => ?table, fun b _ => affine_getLsbD b⟩
  case table => rw [gfInv_eq_unaffine_sbox, affine_unaffine]

/-- Settles O13: the two tables of R103 and R104, entry by entry. -/
theorem inverseSboxInverts : Obligations.InverseSboxInverts := by
  unfold Obligations.InverseSboxInverts
  decide +kernel

end Sys2Proof.Machine
end

section
/-! PROOFS. The steps of the rounds and of the key expansion: bytes, rows, columns and words (spec/40_aes_primitives.md R106 to
R116). A column mix is a matrix over GF(2^8), so that one mix undoes the other is a product of two matrices. -/

namespace Sys2Proof

/-! ### A block by row and column -/

/-- Two blocks with the same byte in every row and column are the same block. -/
theorem Block.ext_rows {a b : Block} (h : ∀ r c, r < 4 → c < 4 → a.byte (r + 4 * c) = b.byte (r + 4 * c)) : a = b :=
  Block.ext_bytes fun n hn => by simpa [Nat.mod_add_div] using h (n % 4) (n / 4) (by omega) (by omega)

/-- The bytes of a word, as the column of the state that the word is. -/
def column (w : Word) (j : Fin 4) : Byte := byteOf w j

theorem column_ext {v w : Word} (h : ∀ j, column v j = column w j) : v = w :=
  word_ext fun j hj => h ⟨j, hj⟩

theorem column_xor (v w : Word) : column (v ^^^ w) = fun j => column v j ^^^ column w j :=
  funext fun j => byteOf_xor v w j

theorem Block.byte_eq_column (b : Block) (c : Nat) (j : Fin 4) : b.byte (4 * c + j) = column (b.word c) j := by
  rw [Block.byte, column, Nat.mul_add_div (by decide), Nat.div_eq_of_lt j.isLt, Nat.mul_add_mod,
    Nat.mod_eq_of_lt j.isLt, Nat.add_zero]

namespace Machine

/-! ### Bytes -/

/-- Settles O14: each step by the bytes of the block it builds. -/
theorem bytewiseSteps : Obligations.BytewiseSteps :=
  ⟨fun _ _ h => ⟨Block.byte_ofBytes _ h, Block.byte_ofBytes _ h⟩, fun s k n _ => Block.byte_xor s k n,
    Block.xor_xor_cancel⟩

/-! ### Rows -/

theorem shiftRows_byte (s : Block) {r c : Nat} (hr : r < 4) (hc : c < 4) :
    (shiftRows s).byte (r + 4 * c) = s.byte (r + 4 * ((c + r) % 4)) := by
  rw [shiftRows, Block.byte_ofBytes _ (by omega), show (r + 4 * c) % 4 = r by omega, show (r + 4 * c) / 4 = c by omega]

theorem invShiftRows_byte (s : Block) {r c : Nat} (hr : r < 4) (hc : c < 4) :
    (invShiftRows s).byte (r + 4 * c) = s.byte (r + 4 * ((c + 4 - r) % 4)) := by
  rw [invShiftRows, Block.byte_ofBytes _ (by omega), show (r + 4 * c) % 4 = r by omega,
    show (r + 4 * c) / 4 = c by omega]

theorem invShiftRows_shiftRows (s : Block) : invShiftRows (shiftRows s) = s := by
  refine Block.ext_rows fun r c hr hc => ?_
  rw [invShiftRows_byte _ hr hc, shiftRows_byte _ hr (by omega), show ((c + 4 - r) % 4 + r) % 4 = c by omega]

/-- Settles O15: a byte of each shift by row and column; the two rotations of a row cancel. -/
theorem rowShifts : Obligations.RowShifts :=
  ⟨fun s _ _ hr hc => ⟨shiftRows_byte s hr hc, invShiftRows_byte s hr hc⟩, by decide, by decide, invShiftRows_shiftRows⟩

/-! ### Matrices over GF(2^8) -/

/-- A row of coefficients applied to a column. -/
def dot (c v : Fin 4 → Byte) : Byte :=
  gfMul (c 0) (v 0) ^^^ gfMul (c 1) (v 1) ^^^ gfMul (c 2) (v 2) ^^^ gfMul (c 3) (v 3)

theorem dot_xor (c v w : Fin 4 → Byte) : dot c (fun j => v j ^^^ w j) = dot c v ^^^ dot c w := by
  simp only [dot, gfMul_xor_right]
  ac_rfl

/-- A row applied to the matrix m applied to a column is the row times m, applied to the column. -/
theorem dot_dot (d : Fin 4 → Byte) (m : Fin 4 → Fin 4 → Byte) (v : Fin 4 → Byte) :
    dot d (fun i => dot (m i) v) = dot (fun j => dot d (fun i => m i j)) v := by
  simp only [dot, gfMul_xor_left, gfMul_xor_right, gfMul_assoc]
  ac_rfl

theorem dot_single (k : Fin 4) (v : Fin 4 → Byte) : dot (Pi.single k 1) v = v k := by
  fin_cases k <;> simp [dot]

/-- Row i of the matrix of MixColumns, the first row turned right by i (spec/40_aes_primitives.md R108). -/
def mixRow (i j : Fin 4) : Byte := ![0x02, 0x03, 0x01, 0x01] (j - i)

/-- Row i of the matrix of InvMixColumns (spec/40_aes_primitives.md R112). -/
def invMixRow (i j : Fin 4) : Byte := ![0x0e, 0x0b, 0x0d, 0x09] (j - i)

/-- The two matrices multiply to the identity. -/
theorem dot_invMixRow_mixRow (k : Fin 4) : (fun j => dot (invMixRow k) (fun i => mixRow i j)) = Pi.single k 1 := by
  revert k; decide

/-! ### Columns -/

theorem column_mixColumn (w : Word) (i : Fin 4) : column (mixColumn w) i = dot (mixRow i) (column w) := by
  fin_cases i <;> simp [column, mixColumn, dot, mixRow, gfMul_comm]

theorem column_invMixColumn (w : Word) (i : Fin 4) : column (invMixColumn w) i = dot (invMixRow i) (column w) := by
  fin_cases i <;> simp [column, invMixColumn, dot, invMixRow, gfMul_comm]

theorem invMixColumn_mixColumn (w : Word) : invMixColumn (mixColumn w) = w := by
  refine column_ext fun k => ?_
  rw [column_invMixColumn, funext (column_mixColumn w), dot_dot, dot_invMixRow_mixRow, dot_single]

theorem invMixColumn_xor (v w : Word) : invMixColumn (v ^^^ w) = invMixColumn v ^^^ invMixColumn w := by
  refine column_ext fun k => ?_
  simp only [column_xor, column_invMixColumn, dot_xor]

theorem invMixColumns_mixColumns (s : Block) : invMixColumns (mixColumns s) = s := by
  simp only [invMixColumns, mixColumns, invMixColumn_mixColumn]

theorem invMixColumns_xor (x y : Block) : invMixColumns (x.xor y) = (invMixColumns x).xor (invMixColumns y) := by
  simp only [invMixColumns, Block.xor, invMixColumn_xor]

theorem mixColumns_word (s : Block) {c : Nat} (h : c < 4) : (mixColumns s).word c = mixColumn (s.word c) := by
  interval_cases c <;> rfl

theorem invMixColumns_word (s : Block) {c : Nat} (h : c < 4) : (invMixColumns s).word c = invMixColumn (s.word c) := by
  interval_cases c <;> rfl

theorem mixColumns_byte (s : Block) {c : Nat} (h : c < 4) (i : Fin 4) :
    (mixColumns s).byte (4 * c + i) = dot (mixRow i) fun j => s.byte (4 * c + j) := by
  simp only [Block.byte_eq_column, mixColumns_word s h, column_mixColumn]

theorem invMixColumns_byte (s : Block) {c : Nat} (h : c < 4) (i : Fin 4) :
    (invMixColumns s).byte (4 * c + i) = dot (invMixRow i) fun j => s.byte (4 * c + j) := by
  simp only [Block.byte_eq_column, invMixColumns_word s h, column_invMixColumn]

/-- Settles O16: each byte by its row of the matrix, with the products by 1 taken away. -/
theorem columnMixes : Obligations.ColumnMixes := by
  refine ⟨fun s c hc => ?rows, by decide +kernel, by decide +kernel, invMixColumns_mixColumns, invMixColumns_xor⟩
  case rows =>
    have mix := mixColumns_byte s hc
    have inv := invMixColumns_byte s hc
    refine ⟨(mix 0).trans ?_, (mix 1).trans ?_, (mix 2).trans ?_, (mix 3).trans ?_, inv 0, inv 1, inv 2, inv 3⟩ <;>
      simp [dot, mixRow]

/-! ### Words of the key expansion -/

theorem rotWord_packWord (a0 a1 a2 a3 : Byte) : rotWord (packWord a0 a1 a2 a3) = packWord a1 a2 a3 a0 := by
  simp [rotWord]

theorem subWord_packWord (a0 a1 a2 a3 : Byte) :
    subWord (packWord a0 a1 a2 a3) = packWord (sbox a0) (sbox a1) (sbox a2) (sbox a3) := by
  simp [subWord]

theorem rotWord_eq_rotateRight (w : Word) : rotWord w = w.rotateRight 8 := by
  refine BitVec.eq_of_getLsbD_eq fun i hi => ?_
  rw [rotWord, packWord_getLsbD, BitVec.getLsbD_rotateRight]
  simp only [byteOf_getLsbD]
  grind

/-- Settles O17: the two steps on a packed word, the rotation bit by bit, and the recursion of the round constants. -/
theorem expansionSteps : Obligations.ExpansionSteps := by
  refine ⟨fun a0 a1 a2 a3 => ⟨rotWord_packWord .., subWord_packWord ..⟩, rotWord_eq_rotateRight, fun _ => rfl, rfl,
    fun j hj => ?step, by decide⟩
  case step =>
    obtain ⟨i, rfl⟩ := Nat.exists_eq_add_of_le' hj
    rfl

end Machine

end Sys2Proof
end

section
/-! PROOFS. The two key schedules of a secret: the expansion word by word, the inverse schedule round key by round key, and
the arrays that store them (spec/41_key_schedule.md R131, R132, R133). -/

namespace Sys2Proof.Machine

/-! ### Sizes -/

theorem keyWords_pos (k : KeyLen) : 0 < keyWords k := by cases k <;> decide

theorem keyWords_le_expansion (k : KeyLen) : keyWords k ≤ 4 * (rounds k + 1) := by cases k <;> decide

/-- The fixed capacity holds the longest schedule (spec/00_scope.md R4). -/
theorem expansion_le_capacity (k : KeyLen) : 4 * (rounds k + 1) ≤ 60 := by cases k <;> decide

/-! ### The expansion (R131) -/

theorem take_extendWords (nk n : Nat) (w : List Word) : (extendWords nk n w).take w.length = w := by
  refine List.ext_getElem? fun i => ?_
  by_cases hi : i < w.length
  · rw [List.getElem?_take_of_lt hi, extendWords_getElem?_of_lt nk n hi]
  · rw [List.getElem?_eq_none (by simp; omega), List.getElem?_eq_none (by omega)]

/-- Every appended word is the next word of the words before it. -/
theorem extendWords_getElem?_of_ge (nk n : Nat) {w : List Word} {i : Nat} (hlow : w.length ≤ i)
    (hhigh : i < w.length + n) :
    (extendWords nk n w)[i]? = some (nextWord nk ((extendWords nk n w).take i)) := by
  induction n generalizing w with
  | zero => omega
  | succ n ih =>
    rcases hlow.eq_or_lt with rfl | hlt
    · rw [take_extendWords, extendWords, extendWords_getElem?_of_lt _ _ (by simp), List.getElem?_concat_length]
    · exact ih (by simpa using hlt) (by simp; omega)

/-- The next word of the first i words of a list, by the words of the list. -/
theorem nextWord_take {nk i : Nat} {w : List Word} (hnk : 0 < nk) (hi : nk ≤ i) (hlen : i ≤ w.length) :
    nextWord nk (w.take i) = w.getD (i - nk) 0 ^^^ expansionTerm nk i (w.getD (i - 1) 0) := by
  have hword {j : Nat} (hj : j < i) : (w.take i).getD j 0 = w.getD j 0 := by
    rw [List.getD_eq_getElem?_getD, List.getElem?_take_of_lt hj, List.getD_eq_getElem?_getD]
  rw [nextWord, List.length_take_of_le hlen, hword (by omega), hword (by omega)]

@[simp] theorem length_expandKey (k : KeyLen) (key : KeyRegs) : (expandKey k key).length = 4 * (rounds k + 1) := by
  rw [expandKey, keyExpansion, length_extendWords, List.length_take_of_le (keyWords_le_length k key),
    Nat.add_sub_cancel' (keyWords_le_expansion k)]

/-- A word of the expansion past the secret, by the two words it is made of. -/
theorem expandKey_getElem?_of_ge (k : KeyLen) (key : KeyRegs) {i : Nat} (hlow : keyWords k ≤ i)
    (hhigh : i < 4 * (rounds k + 1)) :
    (expandKey k key)[i]? = some ((expandKey k key).getD (i - keyWords k) 0
      ^^^ expansionTerm (keyWords k) i ((expandKey k key).getD (i - 1) 0)) := by
  rw [← nextWord_take (keyWords_pos k) hlow (by simp; omega), expandKey, keyExpansion]
  have hlen := List.length_take_of_le (keyWords_le_length k key)
  exact extendWords_getElem?_of_ge _ _ (by omega) (by omega)

/-- The stored array is 0 past the end of the list (R133). -/
theorem scheduleWord_storeSchedule_of_length_le (w : List Word) {i : Nat} (hi : i < 60) (h : w.length ≤ i) :
    scheduleWord (storeSchedule w) i = 0 := by
  rw [scheduleWord_storeSchedule w hi, List.getD_eq_default _ _ h]

/-- Settles O18: the expansion's words as they are appended to the secret's, and the stored array by its words. -/
theorem keyExpansionRecurrence : Obligations.KeyExpansionRecurrence := by
  intro k key
  dsimp only
  rw [← keyWords_eq_code, ← rounds_eq_code]
  refine ⟨length_expandKey k key, fun i hi => ?secret, fun i hlow hhigh => expandKey_getElem?_of_ge k key hlow hhigh,
    fun i hi => ?stored⟩
  case secret =>
    have hkey := hi.trans_le (keyWords_le_length k key)
    rw [expandKey_getElem? k key hi, List.getD_eq_getElem _ _ hkey, ← List.getElem?_eq_getElem hkey,
      Vector.getElem?_toList]
  case stored =>
    rw [encSchedule]
    split_ifs with h
    · exact scheduleWord_storeSchedule _ hi
    · exact scheduleWord_storeSchedule_of_length_le _ hi (by simpa using h)

/-! ### The inverse schedule (R132) -/

theorem roundKey_storeSchedule (w : List Word) {r : Nat} (h : r < 15) :
    roundKey (storeSchedule w) r = listRoundKey w r := by
  simp only [roundKey, listRoundKey]
  iterate 4 rw [scheduleWord_storeSchedule w (by omega)]

/-- Word 4r + j of a list of blocks is word j of block r. -/
theorem flatMap_words_getD (bs : List Block) {r j : Nat} (hr : r < bs.length) (hj : j < 4) :
    (bs.flatMap Block.words).getD (4 * r + j) 0 = bs[r].word j := by
  induction bs generalizing r with
  | nil => cases hr
  | cons b bs ih =>
    rw [List.flatMap_cons]
    cases r with
    | zero =>
      rw [List.getD_append _ _ _ _ (by simpa [Block.words] using hj), Nat.mul_zero, Nat.zero_add, Block.words_getD,
        List.getElem_cons_zero]
    | succ r =>
      rw [List.getD_append_right _ _ _ _ (by simp [Block.words]; omega)]
      simpa [Block.words, show 4 * (r + 1) + j - 4 = 4 * r + j by omega] using ih (by simpa using hr)

theorem decryptionSchedule_eq_flatMap (w : List Word) (nr : Nat) :
    decryptionSchedule w nr = ((List.range (nr + 1)).map (decryptionRoundKey w nr)).flatMap Block.words := by
  rw [decryptionSchedule, List.flatMap_map]

@[simp] theorem length_decryptionSchedule (w : List Word) (nr : Nat) :
    (decryptionSchedule w nr).length = 4 * (nr + 1) := by
  simp [decryptionSchedule, Block.words, Nat.mul_comm]

theorem listRoundKey_decryptionSchedule (w : List Word) {nr r : Nat} (h : r ≤ nr) :
    listRoundKey (decryptionSchedule w nr) r = decryptionRoundKey w nr r := by
  have hword {j : Nat} (hj : j < 4) :
      (decryptionSchedule w nr).getD (4 * r + j) 0 = (decryptionRoundKey w nr r).word j := by
    rw [decryptionSchedule_eq_flatMap, flatMap_words_getD _ (by simp; omega) hj]
    simp
  rw [listRoundKey, hword (j := 1) (by decide), hword (j := 2) (by decide), hword (j := 3) (by decide),
    ← Nat.add_zero (4 * r), hword (j := 0) (by decide)]
  rfl

/-- A decryption round key as it is read from DEC_RK. -/
theorem roundKey_decSchedule (k : KeyLen) (key : KeyRegs) {r : Nat} (h : r ≤ rounds k) :
    roundKey (decSchedule k key) r = decryptionRoundKey (expandKey k key) (rounds k) r := by
  have hcap := expansion_le_capacity k
  rw [decSchedule, roundKey_storeSchedule _ (by omega), listRoundKey_decryptionSchedule _ h]

/-- Settles O19: the round keys that DEC_RK stores are those of the inverse schedule, and it is made of the round keys
that ENC_RK stores. -/
theorem decryptionScheduleReversesAndMixes : Obligations.DecryptionScheduleReversesAndMixes := by
  intro k key r hr
  have hcap := expansion_le_capacity k
  rw [roundKey_decSchedule k key hr, decryptionRoundKey, encSchedule, roundKey_storeSchedule _ (by omega)]

end Sys2Proof.Machine
end

section
/-! PROOFS. SET_KEY and the life of the schedules: the whole next state of SET_KEY (spec/41_key_schedule.md R130, R136),
that no instruction reads the words a schedule does not use (R133), and which instructions write the schedules (R137). -/

namespace Sys2Proof

/-- Only the reserved KLEN code names no key length (spec/30_encoding.md R72). -/
theorem KeyLen.exists_code {c : BitVec 2} (h : c ≠ 3) : ∃ k : KeyLen, c = k.code := by
  obtain ⟨k, hk⟩ := Option.ne_none_iff_exists'.mp (mt KeyLen.ofCode_eq_none.mp h)
  exact ⟨k, KeyLen.ofCode_eq_some.mp hk⟩

namespace Machine

/-! ### SET_KEY in every state (R130, R136) -/

/-- Settles O21: the two refusals and the installation, each with its record written out. -/
theorem setKeyCommand : Obligations.SetKeyCommand := by
  refine ⟨fun mode dir s => execSetKey_badKeyLength mode dir s, fun klen mode dir s hklen hmode => ?badMode,
    fun k m dir s => ?installed⟩
  case badMode =>
    obtain ⟨k, rfl⟩ := KeyLen.exists_code hklen
    exact execSetKey_badMode k hmode dir s
  case installed =>
    rw [exec_setKey, execSetKey_ok, ← rounds_eq_code]
    simp only [cmdOk, installKey, clearKey]

/-! ### The instructions by what they run -/

/-- ENCRYPT_BLOCK, DECRYPT_BLOCK and PROCESS_BLOCK. -/
def IsBlockCommand (i : Instr) : Prop := i = .encryptBlock ∨ i = .decryptBlock ∨ i = .processBlock

/-- Every command is SET_KEY, SET_IV, ZEROIZE or one of the three block commands (spec/30_encoding.md R71). -/
theorem command_cases {i : Instr} (h : (commandWord i).isSome) :
    (∃ klen mode dir, i = .setKey klen mode dir) ∨ i = .setIv ∨ i = .zeroize ∨ IsBlockCommand i := by
  cases i with
  | setKey klen mode dir => exact .inl ⟨klen, mode, dir, rfl⟩
  | setIv => exact .inr (.inl rfl)
  | zeroize => exact .inr (.inr (.inl rfl))
  | encryptBlock => exact .inr (.inr (.inr (.inl rfl)))
  | decryptBlock => exact .inr (.inr (.inr (.inr (.inl rfl))))
  | processBlock => exact .inr (.inr (.inr (.inr (.inr rfl))))
  | hostWrite | hostRead => cases h

/-- Every instruction runs a command, or is a write of an illegal word to CMD, a write to another slot or a read. -/
theorem instr_cases (i : Instr) :
    (∃ c, RunsCommand i c ∧ ∀ s, exec i s = exec c s)
    ∨ (∃ cw, i = .hostWrite 0 cw ∧ illegalCommand cw = true)
    ∨ (∃ idx w, i = .hostWrite idx w ∧ idx ≠ 0)
    ∨ ∃ idx, i = .hostRead idx := by
  cases i with
  | setKey | setIv | encryptBlock | decryptBlock | processBlock | zeroize =>
    exact .inl ⟨_, ⟨rfl, .inl rfl⟩, fun _ => rfl⟩
  | hostRead idx => exact .inr (.inr (.inr ⟨idx, rfl⟩))
  | hostWrite idx w =>
    by_cases hidx : idx = 0
    · subst hidx
      by_cases hill : illegalCommand w = true
      · exact .inr (.inl ⟨w, rfl, hill⟩)
      · obtain ⟨c, hc⟩ := exists_commandWord_of_legal (Bool.eq_false_iff.mpr hill)
        exact .inl ⟨c, ⟨by simp [hc], .inr ⟨w, hc, rfl⟩⟩, exec_hostWrite_commandWord hc⟩
    · exact .inr (.inr (.inl ⟨idx, w, rfl, hidx⟩))

theorem exec_encryptBlock_noKey {s : State} (h : s.keyValid = false) :
    exec .encryptBlock s = .next (cmdError .noKey s) := by
  simp [exec, execEncryptBlock, h]

theorem exec_encryptBlock_ok {s : State} (h : s.keyValid = true) :
    exec .encryptBlock s = .next (cmdOk { s with dout := forward s s.din }) := by
  simp [exec, execEncryptBlock, h]

theorem exec_decryptBlock_noKey {s : State} (h : s.keyValid = false) :
    exec .decryptBlock s = .next (cmdError .noKey s) := by
  simp [exec, execDecryptBlock, h]

theorem exec_decryptBlock_ok {s : State} (h : s.keyValid = true) :
    exec .decryptBlock s = .next (cmdOk { s with dout := inverse s s.din }) := by
  simp [exec, execDecryptBlock, h]

/-! ### The transforms read the round keys 0 to N_r alone (R133) -/

theorem encryptRounds_congr {rk rk' : Schedule} {n : Nat} (h : ∀ r ≤ n, roundKey rk r = roundKey rk' r) (b : Block) :
    encryptRounds rk b n = encryptRounds rk' b n := by
  induction n with
  | zero => rw [encryptRounds, encryptRounds, h 0 le_rfl]
  | succ n ih => rw [encryptRounds, encryptRounds, ih fun r hr => h r (by omega), h (n + 1) le_rfl]

theorem decryptRounds_congr {rk rk' : Schedule} {n : Nat} (h : ∀ r ≤ n, roundKey rk r = roundKey rk' r) (b : Block) :
    decryptRounds rk b n = decryptRounds rk' b n := by
  induction n with
  | zero => rw [decryptRounds, decryptRounds, h 0 le_rfl]
  | succ n ih => rw [decryptRounds, decryptRounds, ih fun r hr => h r (by omega), h (n + 1) le_rfl]

theorem encryptBlock_congr {rk rk' : Schedule} {nr : Nat} (h : ∀ r ≤ nr, roundKey rk r = roundKey rk' r) (b : Block) :
    encryptBlock rk nr b = encryptBlock rk' nr b := by
  rw [encryptBlock, encryptBlock, encryptRounds_congr fun r hr => h r (by omega), h nr le_rfl]

theorem decryptBlock_congr {rk rk' : Schedule} {nr : Nat} (h : ∀ r ≤ nr, roundKey rk r = roundKey rk' r) (b : Block) :
    decryptBlock rk nr b = decryptBlock rk' nr b := by
  rw [decryptBlock, decryptBlock, decryptRounds_congr fun r hr => h r (by omega), h nr le_rfl]

/-- The words before 4(N_r+1) make up the round keys 0 to N_r. -/
theorem roundKey_eq_of_usedWords {rk rk' : Schedule} {nr : Nat}
    (h : ∀ i, i < 4 * (nr + 1) → scheduleWord rk i = scheduleWord rk' i) : ∀ r ≤ nr, roundKey rk r = roundKey rk' r :=
  fun _ _ => roundKey_congr fun i _ hi => h i (by omega)

/-! ### States that differ in unused schedule words alone (R133) -/

/-- The state with other contents of both schedules. -/
def State.withSchedules (s : State) (erk drk : Schedule) : State := { s with encRk := erk, decRk := drk }

@[simp] theorem withSchedules_keyValid (s : State) (erk drk : Schedule) :
    (s.withSchedules erk drk).keyValid = s.keyValid := rfl

@[simp] theorem withSchedules_ivValid (s : State) (erk drk : Schedule) :
    (s.withSchedules erk drk).ivValid = s.ivValid := rfl

@[simp] theorem withSchedules_cfgMode (s : State) (erk drk : Schedule) :
    (s.withSchedules erk drk).cfgMode = s.cfgMode := rfl

section
variable {s : State} {erk drk : Schedule}

theorem readSlot_withSchedules (idx : BitVec 5) : readSlot (s.withSchedules erk drk) idx = readSlot s idx := by
  unfold readSlot; split <;> rfl

theorem writeSlot_withSchedules (idx : BitVec 5) (w : Word) :
    writeSlot (s.withSchedules erk drk) idx w = (writeSlot s idx w).withSchedules erk drk := by
  unfold writeSlot; split <;> rfl

variable (h : ∀ i, i < 4 * (s.nr.toNat + 1) →
  scheduleWord s.encRk i = scheduleWord erk i ∧ scheduleWord s.decRk i = scheduleWord drk i)
include h

theorem forward_withSchedules : forward (s.withSchedules erk drk) = forward s :=
  funext fun b => (encryptBlock_congr (roundKey_eq_of_usedWords fun i hi => (h i hi).1) b).symm

theorem inverse_withSchedules : inverse (s.withSchedules erk drk) = inverse s :=
  funext fun b => (decryptBlock_congr (roundKey_eq_of_usedWords fun i hi => (h i hi).2) b).symm

theorem chainStep_withSchedules (order : CounterOrder) :
    chainStep order (s.withSchedules erk drk) = chainStep order s := by
  rw [chainStep, forward_withSchedules h, inverse_withSchedules h]; rfl

theorem processBlock_withSchedules (order : CounterOrder) :
    processBlock order (s.withSchedules erk drk) = (processBlock order s).withSchedules erk drk := by
  simp only [processBlock, withSchedules_keyValid, withSchedules_ivValid, withSchedules_cfgMode,
    chainStep_withSchedules h]
  split_ifs <;> rfl

/-- A block command answers the same, but for the words themselves. -/
theorem exec_withSchedules_of_isBlockCommand {i : Instr} (hi : IsBlockCommand i) :
    ∃ t, exec i s = .next t ∧ exec i (s.withSchedules erk drk) = .next (t.withSchedules erk drk) := by
  rcases hi with rfl | rfl | rfl
  · cases hk : s.keyValid with
    | false => exact ⟨_, exec_encryptBlock_noKey hk, exec_encryptBlock_noKey (s := s.withSchedules erk drk) hk⟩
    | true =>
      refine ⟨_, exec_encryptBlock_ok hk, ?_⟩
      rw [exec_encryptBlock_ok (s := s.withSchedules erk drk) hk, forward_withSchedules h]; rfl
  · cases hk : s.keyValid with
    | false => exact ⟨_, exec_decryptBlock_noKey hk, exec_decryptBlock_noKey (s := s.withSchedules erk drk) hk⟩
    | true =>
      refine ⟨_, exec_decryptBlock_ok hk, ?_⟩
      rw [exec_decryptBlock_ok (s := s.withSchedules erk drk) hk, inverse_withSchedules h]; rfl
  · exact ⟨_, rfl, congrArg _ (processBlock_withSchedules h _)⟩

/-- A command answers the same, the words kept or overwritten. -/
theorem exec_withSchedules_of_command {i : Instr} (hi : (commandWord i).isSome) :
    ∃ t, exec i s = .next t ∧ (exec i (s.withSchedules erk drk) = .next t
      ∨ exec i (s.withSchedules erk drk) = .next (t.withSchedules erk drk)) := by
  rcases command_cases hi with ⟨klen, mode, dir, rfl⟩ | rfl | rfl | hblock
  · rcases execSetKey_cases klen mode dir s with ⟨rfl, hs⟩ | ⟨hklen, hmode, hs⟩ | ⟨k, m, rfl, rfl, hs⟩
    · exact ⟨_, hs, .inr (execSetKey_badKeyLength mode dir _)⟩
    · obtain ⟨k, rfl⟩ := KeyLen.exists_code hklen
      exact ⟨_, hs, .inr (execSetKey_badMode k hmode dir _)⟩
    · refine ⟨_, hs, .inl ((execSetKey_ok k m dir _).trans ?_)⟩
      simp only [cmdOk, installKey, clearKey, State.withSchedules]
  · exact ⟨_, rfl, .inr rfl⟩
  · exact ⟨_, rfl, .inl rfl⟩
  · obtain ⟨t, hs, hs'⟩ := exec_withSchedules_of_isBlockCommand h hblock
    exact ⟨t, hs, .inr hs'⟩

/-- Every instruction answers the same, the words kept or overwritten. -/
theorem exec_withSchedules (i : Instr) :
    ∃ t, exec i s = .next t ∧ (exec i (s.withSchedules erk drk) = .next t
      ∨ exec i (s.withSchedules erk drk) = .next (t.withSchedules erk drk)) := by
  rcases instr_cases i with ⟨c, ⟨hc, -⟩, hrun⟩ | ⟨cw, rfl, hill⟩ | ⟨idx, w, rfl, hidx⟩ | ⟨idx, rfl⟩
  · simpa only [hrun] using exec_withSchedules_of_command h hc
  · exact ⟨_, exec_hostWrite_illegalCommand hill s, .inr (exec_hostWrite_illegalCommand hill _)⟩
  · exact ⟨_, exec_hostWrite hidx w s, .inr (by rw [exec_hostWrite hidx, writeSlot_withSchedules])⟩
  · exact ⟨_, exec_hostRead idx s, .inr (by rw [exec_hostRead, readSlot_withSchedules]; rfl)⟩

end

/-- Settles O20: the stored arrays are zero past their lists, the transforms read the round keys 0 to N_r, and the rest of
an instruction's meaning reads no schedule. -/
theorem unusedScheduleWordsAreZeroAndUnread : Obligations.UnusedScheduleWordsAreZeroAndUnread := by
  refine ⟨fun k m dir s => ?zero, fun rk rk' nr h b => ?transforms,
    fun s erk drk h => ⟨fun i hi => ?block, fun i => ?any⟩⟩
  case zero =>
    refine ⟨_, (exec_setKey ..).trans (execSetKey_ok k m dir s), fun i hlow hhigh => ?_⟩
    rw [cmdOk_encRk, cmdOk_decRk, installKey_encRk, installKey_decRk, encSchedule, decSchedule]
    exact ⟨scheduleWord_storeSchedule_of_length_le _ hhigh (by simpa using hlow),
      scheduleWord_storeSchedule_of_length_le _ hhigh (by simpa using hlow)⟩
  case transforms =>
    have hkeys := roundKey_eq_of_usedWords h
    exact ⟨encryptBlock_congr hkeys b, decryptBlock_congr hkeys b⟩
  case block => exact exec_withSchedules_of_isBlockCommand h hi
  case any => exact exec_withSchedules h i

/-! ### What writes the schedules (R137) -/

/-- ENC_RK, DEC_RK and NR are as before. -/
def KeepsSchedules (s t : State) : Prop := t.encRk = s.encRk ∧ t.decRk = s.decRk ∧ t.nr = s.nr

/-- ZEROIZE, and SET_KEY with legal fields. -/
def WritesSchedules (i : Instr) : Prop :=
  i = .zeroize ∨ ∃ (k : KeyLen) (m : Mode) (dir : Dir), i = .setKey k.code m.code dir

theorem processBlock_keepsSchedules (order : CounterOrder) (s : State) : KeepsSchedules s (processBlock order s) := by
  unfold processBlock
  split_ifs <;> exact ⟨rfl, rfl, rfl⟩

theorem exec_keepsSchedules_of_isBlockCommand {i : Instr} (hi : IsBlockCommand i) (s : State) :
    ∃ t, exec i s = .next t ∧ KeepsSchedules s t := by
  rcases hi with rfl | rfl | rfl
  · cases hk : s.keyValid with
    | false => exact ⟨_, exec_encryptBlock_noKey hk, rfl, rfl, rfl⟩
    | true => exact ⟨_, exec_encryptBlock_ok hk, rfl, rfl, rfl⟩
  · cases hk : s.keyValid with
    | false => exact ⟨_, exec_decryptBlock_noKey hk, rfl, rfl, rfl⟩
    | true => exact ⟨_, exec_decryptBlock_ok hk, rfl, rfl, rfl⟩
  · exact ⟨_, rfl, processBlock_keepsSchedules _ s⟩

theorem exec_keepsSchedules_of_command {i : Instr} (hi : (commandWord i).isSome) (hw : ¬ WritesSchedules i) (s : State) :
    ∃ t, exec i s = .next t ∧ KeepsSchedules s t := by
  rcases command_cases hi with ⟨klen, mode, dir, rfl⟩ | rfl | rfl | hblock
  · rcases execSetKey_cases klen mode dir s with ⟨-, hs⟩ | ⟨-, -, hs⟩ | ⟨k, m, rfl, rfl, -⟩
    · exact ⟨_, hs, rfl, rfl, rfl⟩
    · exact ⟨_, hs, rfl, rfl, rfl⟩
    · exact (hw (.inr ⟨k, m, dir, rfl⟩)).elim
  · exact ⟨_, rfl, rfl, rfl, rfl⟩
  · exact (hw (.inl rfl)).elim
  · exact exec_keepsSchedules_of_isBlockCommand hblock s

/-- An instruction that runs none of the commands that write the schedules keeps them. -/
theorem exec_keepsSchedules {i : Instr} (hw : ∀ c, RunsCommand i c → ¬ WritesSchedules c) (s : State) :
    ∃ t, exec i s = .next t ∧ KeepsSchedules s t := by
  rcases instr_cases i with ⟨c, hc, hrun⟩ | ⟨cw, rfl, hill⟩ | ⟨idx, w, rfl, hidx⟩ | ⟨idx, rfl⟩
  · simpa only [hrun] using exec_keepsSchedules_of_command hc.1 (hw c hc) s
  · exact ⟨_, exec_hostWrite_illegalCommand hill s, rfl, rfl, rfl⟩
  · exact ⟨_, exec_hostWrite hidx w s, by simp [KeepsSchedules]⟩
  · exact ⟨_, exec_hostRead idx s, rfl, rfl, rfl⟩

/-- An instruction that changes the schedules or NR runs one of the commands that write them. -/
theorem runs_of_not_keepsSchedules {i : Instr} {s t : State} (h : exec i s = .next t) (hchanged : ¬ KeepsSchedules s t) :
    ∃ c, RunsCommand i c ∧ WritesSchedules c := by
  by_contra hnone
  obtain ⟨u, hu, hkeeps⟩ := exec_keepsSchedules (i := i) (fun c hc hw => hnone ⟨c, hc, hw⟩) s
  obtain rfl := Host.Outcome.next.inj (h.symm.trans hu)
  exact hchanged hkeeps

/-! ### What the port presents -/

/-- A write to CMD is decoded as a HOST_WRITE only where the word is refused (log entry 5). -/
theorem decodeCommand_of_decodeTransaction_hostWrite {w : Transaction} {cw : Word}
    (h : decodeTransaction w = .hostWrite 0 cw) : ∃ e, decodeCommand cw = .error e := by
  simp only [decodeTransaction, decodeWrite] at h
  split at h
  · split at h
    · split at h
      · next i hdec =>
        subst h
        cases commandWord_isSome_of_decodeCommand hdec
      · next e herr =>
        obtain ⟨-, rfl⟩ := Instr.hostWrite.inj h
        exact ⟨e, herr⟩
    · next hne => exact (hne (Instr.hostWrite.inj h).1).elim
  · cases h

/-- A transaction that runs a command is decoded as that command. -/
theorem decodeTransaction_of_runsCommand {w : Transaction} {c : Instr} (h : RunsCommand (decodeTransaction w) c) :
    decodeTransaction w = c := by
  obtain ⟨-, hdec | ⟨cw, hcw, hdec⟩⟩ := h
  · exact hdec
  · obtain ⟨e, he⟩ := decodeCommand_of_decodeTransaction_hostWrite hdec
    cases he.symm.trans (decodeCommand_commandWord hcw)

theorem pending_of_takeInput_reset {s u : State} (h : takeInput s = .reset u) : ∃ rest, s.pending = .rst :: rest := by
  unfold takeInput at h
  split at h
  · cases h
  · next rest hp => exact ⟨rest, hp⟩
  · cases h
  · split at h <;> cases h

/-! ### The statement on steps and instructions (R137) -/

/-- Settles O22: an instruction keeps the schedules or runs a command that writes them, and a step idles, resets or runs
the instruction its transaction is decoded to. -/
theorem schedulesChangeOnlyBySetKeyAndZeroize : Obligations.SchedulesChangeOnlyBySetKeyAndZeroize := by
  refine ⟨fun i s t h hchanged => ?exec, fun s t h hchanged => ?step⟩
  case exec =>
    obtain ⟨c, hc, rfl | ⟨k, m, dir, rfl⟩⟩ := runs_of_not_keepsSchedules h hchanged
    · exact .inl hc
    · exact .inr ⟨k, m, dir, hc⟩
  case step =>
    rcases step_cases h with ⟨-, rfl⟩ | ⟨u, htake, -⟩ | ⟨w, u, htake, hexec⟩
    · exact (hchanged ⟨rfl, rfl, rfl⟩).elim
    · exact .inl (pending_of_takeInput_reset htake)
    · obtain ⟨rest, rfl⟩ := takeInput_state (.inr ⟨w, htake⟩)
      obtain ⟨c, hc, hw⟩ := runs_of_not_keepsSchedules hexec hchanged
      exact .inr ⟨w, rest, htake, hexec, decodeTransaction_of_runsCommand hc ▸ hw⟩

end Machine

end Sys2Proof
end

section
/-! PROOFS. E and its command: both transforms as the loops of the spec (spec/42_block_encrypt.md R150,
spec/43_block_decrypt.md R160), every step of E and so E itself as a bijection on blocks (R152), and ENCRYPT_BLOCK in
every state (R151). -/

namespace Sys2Proof.Machine

/-! ### The transforms as loops (R150, R160) -/

/-- What a loop over the rounds 1 to n computes, when one more round is one step more. -/
theorem foldl_range'_one_eq {step : Block → Nat → Block} {after : Nat → Block}
    (h : ∀ r, after (r + 1) = step (after r) (r + 1)) (n : Nat) :
    (List.range' 1 n).foldl step (after 0) = after n := by
  induction n with
  | zero => rfl
  | succ n ih => rw [List.range'_1_concat, List.foldl_concat, ih, Nat.add_comm 1 n, h]

theorem encryptRounds_eq_foldl (rk : Schedule) (input : Block) (n : Nat) :
    encryptRounds rk input n =
      (List.range' 1 n).foldl (fun s r => addRoundKey (mixColumns (shiftRows (subBytes s))) (roundKey rk r))
        (addRoundKey input (roundKey rk 0)) :=
  (foldl_range'_one_eq (after := encryptRounds rk input) (fun _ => rfl) n).symm

theorem decryptRounds_eq_foldl (drk : Schedule) (input : Block) (n : Nat) :
    decryptRounds drk input n =
      (List.range' 1 n).foldl (fun s r => addRoundKey (invMixColumns (invSubBytes (invShiftRows s))) (roundKey drk r))
        (addRoundKey input (roundKey drk 0)) :=
  (foldl_range'_one_eq (after := decryptRounds drk input) (fun _ => rfl) n).symm

/-- D begins with the round key that E ends with. -/
theorem roundKey_decSchedule_zero (k : KeyLen) (key : KeyRegs) :
    roundKey (decSchedule k key) 0 = roundKey (encSchedule k key) (rounds k) :=
  decryptionScheduleReversesAndMixes k key 0 (Nat.zero_le _)

/-- Settles O23: the middle rounds of each transform are a loop, and the inverse schedule reverses the round keys. -/
theorem transformsAreTheRounds : Obligations.TransformsAreTheRounds := by
  refine ⟨fun rk nr input => ⟨?encrypt, ?decrypt⟩, roundKey_decSchedule_zero⟩
  case encrypt => rw [encryptBlock, encryptRounds_eq_foldl]
  case decrypt => rw [decryptBlock, decryptRounds_eq_foldl]

/-! ### Each step undoes its inverse, and is a bijection -/

theorem subBytes_byte (s : Block) {n : Nat} (h : n < 16) : (subBytes s).byte n = sbox (s.byte n) :=
  Block.byte_ofBytes _ h

theorem invSubBytes_byte (s : Block) {n : Nat} (h : n < 16) : (invSubBytes s).byte n = invSbox (s.byte n) :=
  Block.byte_ofBytes _ h

theorem invSubBytes_subBytes (s : Block) : invSubBytes (subBytes s) = s := by
  refine Block.ext_bytes fun n hn => ?_
  rw [invSubBytes_byte _ hn, subBytes_byte _ hn, (inverseSboxInverts _).1]

theorem subBytes_invSubBytes (s : Block) : subBytes (invSubBytes s) = s := by
  refine Block.ext_bytes fun n hn => ?_
  rw [subBytes_byte _ hn, invSubBytes_byte _ hn, (inverseSboxInverts _).2]

theorem shiftRows_invShiftRows (s : Block) : shiftRows (invShiftRows s) = s := by
  refine Block.ext_rows fun r c hr hc => ?_
  rw [shiftRows_byte _ hr hc, invShiftRows_byte _ hr (by omega), show ((c + r) % 4 + 4 - r) % 4 = c by omega]

/-- The two matrices multiply to the identity in the other order too. -/
theorem dot_mixRow_invMixRow (k : Fin 4) : (fun j => dot (mixRow k) (fun i => invMixRow i j)) = Pi.single k 1 := by
  revert k; decide

theorem mixColumn_invMixColumn (w : Word) : mixColumn (invMixColumn w) = w := by
  refine column_ext fun k => ?_
  rw [column_mixColumn, funext (column_invMixColumn w), dot_dot, dot_mixRow_invMixRow, dot_single]

theorem mixColumns_invMixColumns (s : Block) : mixColumns (invMixColumns s) = s := by
  simp only [mixColumns, invMixColumns, mixColumn_invMixColumn]

theorem subBytes_bijective : Function.Bijective subBytes :=
  Function.bijective_iff_has_inverse.mpr ⟨invSubBytes, invSubBytes_subBytes, subBytes_invSubBytes⟩

theorem shiftRows_bijective : Function.Bijective shiftRows :=
  Function.bijective_iff_has_inverse.mpr ⟨invShiftRows, invShiftRows_shiftRows, shiftRows_invShiftRows⟩

theorem mixColumns_bijective : Function.Bijective mixColumns :=
  Function.bijective_iff_has_inverse.mpr ⟨invMixColumns, invMixColumns_mixColumns, mixColumns_invMixColumns⟩

theorem addRoundKey_bijective (k : Block) : Function.Bijective (addRoundKey · k) :=
  Function.Involutive.bijective fun s => Block.xor_xor_cancel s k

/-! ### E is a bijection (R152) -/

/-- The steps that every round of E has before its MixColumns or its AddRoundKey. -/
theorem shiftRows_subBytes_bijective : Function.Bijective fun s => shiftRows (subBytes s) :=
  shiftRows_bijective.comp subBytes_bijective

theorem encryptRounds_bijective (rk : Schedule) (n : Nat) : Function.Bijective (encryptRounds rk · n) := by
  induction n with
  | zero => exact addRoundKey_bijective (roundKey rk 0)
  | succ n ih =>
    exact (addRoundKey_bijective (roundKey rk (n + 1))).comp
      (mixColumns_bijective.comp (shiftRows_subBytes_bijective.comp ih))

theorem encryptBlock_bijective (rk : Schedule) (nr : Nat) : Function.Bijective (encryptBlock rk nr) :=
  (addRoundKey_bijective (roundKey rk nr)).comp
    (shiftRows_subBytes_bijective.comp (encryptRounds_bijective rk (nr - 1)))

/-- Settles O24: E is made of bijections; the known answer is run by the kernel. -/
theorem encryptIsBijective : Obligations.EncryptIsBijective :=
  ⟨encryptBlock_bijective, by decide +kernel⟩

/-! ### ENCRYPT_BLOCK (R151) -/

/-- Settles O28: the command's two cases, each with its record written out. -/
theorem encryptBlockCommand : Obligations.EncryptBlockCommand :=
  ⟨fun _ => exec_encryptBlock_ok, fun _ => exec_encryptBlock_noKey⟩

end Sys2Proof.Machine
end

section
/-! PROOFS. D and its command: D under the inverse schedule takes back the rounds of E one by one, so each of the two
transforms undoes the other (spec/43_block_decrypt.md R163), and DECRYPT_BLOCK in every state (R162). -/

namespace Sys2Proof.Machine

/-! ### The round keys of D in terms of those of E (R132) -/

/-- The round key of a middle round of D, with the index of E's round key as the round that it takes back. -/
theorem roundKey_decSchedule_middle {k : KeyLen} (key : KeyRegs) {r n : Nat} (h : r + 1 + (n + 1) = rounds k) :
    roundKey (decSchedule k key) (r + 1) = invMixColumns (roundKey (encSchedule k key) (n + 1)) := by
  rw [decryptionScheduleReversesAndMixes k key (r + 1) (by omega), if_pos (by omega),
    show rounds k - (r + 1) = n + 1 by omega]

/-- D ends with the round key that E begins with. -/
theorem roundKey_decSchedule_rounds (k : KeyLen) (key : KeyRegs) :
    roundKey (decSchedule k key) (rounds k) = roundKey (encSchedule k key) 0 := by
  rw [decryptionScheduleReversesAndMixes k key (rounds k) le_rfl, if_neg (by omega), Nat.sub_self]

/-! ### D takes back the rounds of E (R163) -/

theorem rounds_pos (k : KeyLen) : 0 < rounds k := by cases k <;> decide

/-- The inverse row shift and byte substitution of a round of D take back those of a round of E. -/
theorem invSubBytes_invShiftRows_shiftRows_subBytes (s : Block) :
    invSubBytes (invShiftRows (shiftRows (subBytes s))) = s := by
  rw [invShiftRows_shiftRows, invSubBytes_subBytes]

/-- A round key added before InvMixColumns is taken away by its own InvMixColumns added after. -/
theorem addRoundKey_invMixColumns_addRoundKey_mixColumns (s rk : Block) :
    addRoundKey (invMixColumns (addRoundKey (mixColumns s) rk)) (invMixColumns rk) = s := by
  simp only [addRoundKey, invMixColumns_xor, invMixColumns_mixColumns, Block.xor_xor_cancel]

/-- After r rounds D of E(b) stands inside round n + 1 of E, past its row shift, when n + 1 rounds of D are left: the
equivalent inverse cipher takes back the steps of E half a round out of phase. -/
theorem decryptRounds_encryptBlock {k : KeyLen} (key : KeyRegs) (b : Block) {r n : Nat} (h : r + (n + 1) = rounds k) :
    decryptRounds (decSchedule k key) (encryptBlock (encSchedule k key) (rounds k) b) r =
      shiftRows (subBytes (encryptRounds (encSchedule k key) b n)) := by
  induction r generalizing n with
  | zero =>
    rw [decryptRounds, roundKey_decSchedule_zero, encryptBlock, show rounds k - 1 = n by omega]
    exact Block.xor_xor_cancel _ _
  | succ r ih =>
    rw [decryptRounds, ih (n := n + 1) (by omega), invSubBytes_invShiftRows_shiftRows_subBytes, encryptRounds,
      roundKey_decSchedule_middle key h, addRoundKey_invMixColumns_addRoundKey_mixColumns]

theorem decryptBlock_encryptBlock (k : KeyLen) (key : KeyRegs) (b : Block) :
    decryptBlock (decSchedule k key) (rounds k) (encryptBlock (encSchedule k key) (rounds k) b) = b := by
  have hpos := rounds_pos k
  rw [decryptBlock, decryptRounds_encryptBlock key b (n := 0) (by omega), invSubBytes_invShiftRows_shiftRows_subBytes,
    roundKey_decSchedule_rounds, encryptRounds]
  exact Block.xor_xor_cancel _ _

/-- E is onto, so its left inverse D is its right inverse too. -/
theorem encryptBlock_decryptBlock (k : KeyLen) (key : KeyRegs) (b : Block) :
    encryptBlock (encSchedule k key) (rounds k) (decryptBlock (decSchedule k key) (rounds k) b) = b :=
  Function.LeftInverse.rightInverse_of_surjective (decryptBlock_encryptBlock k key)
    (encryptBlock_bijective (encSchedule k key) (rounds k)).surjective b

/-- Settles O26: D takes back E round by round, and E is a bijection. -/
theorem decryptInvertsEncrypt : Obligations.DecryptInvertsEncrypt :=
  fun k key b => ⟨decryptBlock_encryptBlock k key b, encryptBlock_decryptBlock k key b⟩

/-! ### DECRYPT_BLOCK (R162) -/

/-- Settles O29: the command's two cases, each with its record written out. -/
theorem decryptBlockCommand : Obligations.DecryptBlockCommand :=
  ⟨fun _ => exec_decryptBlock_ok, fun _ => exec_decryptBlock_noKey⟩

end Sys2Proof.Machine
end

section
/-! PROOFS. The counter of CTR as a number: a block is the digits of its number, to the base 2^32 under WORD_BE and to the
base 256 under BYTE_BE, the two numbers differ by the order of the bytes in the words, and Inc128 adds one to its own
(spec/44_mode_engine.md R177). -/

namespace Sys2Proof.Machine

/-! ### WORD_BE: blocks and 128-bit numbers -/

theorem numberBlock_blockNumber (b : Block) : numberBlock (blockNumber b) = b := by
  obtain ⟨w0, w1, w2, w3⟩ := b
  refine (Block.mk.injEq ..).mpr ⟨?_, ?_, ?_, ?_⟩
  all_goals
    refine BitVec.eq_of_getLsbD_eq fun i hi => ?_
    simp only [blockNumber, BitVec.getLsbD_extractLsb', BitVec.getLsbD_or, BitVec.getLsbD_shiftLeft,
      BitVec.getLsbD_setWidth]
    grind

theorem counterWordBE_numberBlock (v : BitVec 128) : counterWordBE (numberBlock v) = v.toNat := by
  simp only [counterWordBE, numberBlock, BitVec.extractLsb'_toNat, Nat.shiftRight_eq_div_pow]
  omega

theorem toNat_blockNumber (b : Block) : (blockNumber b).toNat = counterWordBE b := by
  rw [← counterWordBE_numberBlock, numberBlock_blockNumber]

theorem counterWordBE_inc128 (b : Block) : counterWordBE (inc128 .wordBE b) = (counterWordBE b + 1) % 2 ^ 128 := by
  rw [inc128, counterWordBE_numberBlock, BitVec.toNat_add, toNat_blockNumber]
  rfl

/-- The words of a block are the digits of its WORD_BE number. -/
theorem toNat_word (b : Block) {k : Nat} (h : k < 4) :
    (b.word k).toNat = counterWordBE b / 2 ^ (32 * (3 - k)) % 2 ^ 32 := by
  have h0 := b.w0.isLt
  have h1 := b.w1.isLt
  have h2 := b.w2.isLt
  have h3 := b.w3.isLt
  interval_cases k <;> simp only [Block.word, counterWordBE] <;> omega

/-! ### BYTE_BE: the same over words whose bytes are taken in the other order -/

theorem swapWord_swapWord (w : Word) : swapWord (swapWord w) = w := by simp [swapWord]

theorem swapWords_swapWords (b : Block) : swapWords (swapWords b) = b := by simp only [swapWords, swapWord_swapWord]

/-- Taking the bytes of every word in the other order turns the BYTE_BE number into the WORD_BE number. -/
theorem counterWordBE_swapWords (b : Block) : counterWordBE (swapWords b) = counterByteBE b := by
  simp only [counterWordBE, swapWords, swapWord, toNat_packWord, counterByteBE, List.sum_range_succ, List.range_zero,
    List.map_nil, List.sum_nil, Block.byte, Block.word, Nat.reduceMod, Nat.reduceDiv]
  omega

theorem counterByteBE_inc128 (b : Block) : counterByteBE (inc128 .byteBE b) = (counterByteBE b + 1) % 2 ^ 128 := by
  rw [← counterWordBE_swapWords, ← counterWordBE_swapWords, ← counterWordBE_inc128, inc128, swapWords_swapWords, inc128]

/-- The bytes of a block are the digits of its BYTE_BE number. -/
theorem toNat_byte (b : Block) {n : Nat} (h : n < 16) :
    (b.byte n).toNat = counterByteBE b / 256 ^ (15 - n) % 256 := by
  simp only [counterByteBE, List.sum_range_succ, List.range_zero, List.map_nil, List.sum_nil]
  interval_cases n <;> omega

/-! ### The order and the output (R176, R177) -/

/-- Only the next counter depends on the order. -/
theorem modeStep_output_order (order order' : CounterOrder) (e d : Block → Block) (mode : Mode) (dir : Dir)
    (x ch : Block) : (modeStep order e d mode dir x ch).1 = (modeStep order' e d mode dir x ch).1 := by
  cases mode <;> cases dir <;> rfl

theorem processBlock_dout_order (order order' : CounterOrder) (s : State) :
    (processBlock order s).dout = (processBlock order' s).dout := by
  unfold processBlock
  split_ifs
  · rfl
  · rfl
  · exact modeStep_output_order ..

/-- Settles O36: a block is the digits of its number and Inc128 adds one to the number; the fixed blocks are run. -/
theorem counterIncrement : Obligations.CounterIncrement := by
  refine ⟨fun b n h => ?bytes, fun b k h => ?words, by decide, by decide, by decide, by decide, ?wrap,
    processBlock_dout_order _ _, rfl⟩
  case wrap => rintro (_ | _) <;> decide
  case bytes => rw [toNat_byte _ h, counterByteBE_inc128]
  case words => rw [toNat_word _ h, counterWordBE_inc128]

end Sys2Proof.Machine
end

section
/-! PROOFS. The mode engine: PROCESS_BLOCK with its preconditions met is one mode step, whose equations are those of
CFG_MODE and CFG_DIR (spec/44_mode_engine.md R170 to R176, R179), and SET_IV gives the first of them its chained value
(R178). -/

namespace Sys2Proof.Machine

/-! ### The two commands -/

theorem exec_setIv (s : State) : exec .setIv s = .next (cmdOk { s with chain := s.iv, ivValid := true }) := rfl

theorem exec_processBlock (s : State) : exec .processBlock s = .next (processBlock .byteBE s) := rfl

/-- PROCESS_BLOCK with its preconditions met, by what its mode step gives. -/
theorem exec_processBlock_of_chainStep {s : State} {p : Block × Block} (hk : s.keyValid = true)
    (hi : s.cfgMode = .ecb ∨ s.ivValid = true) (h : chainStep .byteBE s = p) :
    exec .processBlock s = .next { s with dout := p.1, chain := p.2, err := .ok } := by
  rw [exec_processBlock, processBlock_ok _ hk hi, h, cmdOk]

/-- PROCESS_BLOCK with its preconditions met, by the equation of the mode and the direction. -/
theorem exec_processBlock_of_config {s : State} {m : Mode} {d : Dir} (hk : s.keyValid = true)
    (hi : s.cfgMode = .ecb ∨ s.ivValid = true) (hm : s.cfgMode = m) (hd : s.cfgDir = d) :
    exec .processBlock s = .next
      { s with
        dout := (modeStep .byteBE (forward s) (inverse s) m d s.din s.chain).1
        chain := (modeStep .byteBE (forward s) (inverse s) m d s.din s.chain).2
        err := .ok } :=
  exec_processBlock_of_chainStep hk hi (by rw [chainStep, hm, hd])

/-- Settles O30: the command's record written out. -/
theorem setIvCommand : Obligations.SetIvCommand := exec_setIv

/-- Settles O31: PROCESS_BLOCK by its three cases. -/
theorem processBlockCommand : Obligations.ProcessBlockCommand :=
  ⟨fun _ hk => congrArg _ (processBlock_noKey _ hk), fun _ hk hm hi => congrArg _ (processBlock_noIv _ hk hm hi),
    fun _ hk hi => exec_processBlock_of_chainStep hk hi rfl⟩

/-! ### The equations of the modes (R171 to R176) -/

/-- Settles O32: the mode step of ECB in each direction. -/
theorem ecbStep : Obligations.EcbStep := by
  intro s hk hm
  split <;> exact exec_processBlock_of_config hk (.inl hm) hm ‹_›

/-- Settles O33: the mode steps of CBC and PCBC in each direction, and the same after SET_IV. -/
theorem cbcAndPcbcSteps : Obligations.CbcAndPcbcSteps := by
  refine ⟨fun s hk hi hm => ?cbc, fun s hk hi hm => ?pcbc, fun s hk hm => ?first⟩
  case cbc | pcbc => split <;> exact exec_processBlock_of_config hk (.inr hi) hm ‹_›
  case first =>
    rcases hm with hm | hm <;> cases hd : s.cfgDir <;>
      exact ⟨_, _, exec_setIv s, exec_processBlock_of_config hk (.inr rfl) hm hd, rfl⟩

/-! OFB and CTR: the same in both directions. -/

theorem modeStep_ofb (order : CounterOrder) (e d : Block → Block) (dir : Dir) (x ch : Block) :
    modeStep order e d .ofb dir x ch = (x.xor (e ch), e ch) := by cases dir <;> rfl

theorem modeStep_ctr (order : CounterOrder) (e d : Block → Block) (dir : Dir) (x ch : Block) :
    modeStep order e d .ctr dir x ch = (x.xor (e ch), inc128 order ch) := by cases dir <;> rfl

/-- Settles O34: the mode step of CFB in each direction, and that of OFB in both. -/
theorem cfbAndOfbSteps : Obligations.CfbAndOfbSteps := by
  refine ⟨fun s hk hi hm => ?cfb, fun s hk hi hm => ?ofb⟩
  case cfb =>
    dsimp only
    split <;> exact exec_processBlock_of_config hk (.inr hi) hm ‹_›
  case ofb => exact exec_processBlock_of_chainStep hk (.inr hi) (by rw [chainStep, hm, modeStep_ofb])

/-- PROCESS_BLOCK in CTR, whatever CFG_DIR says. -/
theorem exec_processBlock_ctr {s : State} (hk : s.keyValid = true) (hi : s.ivValid = true) (hm : s.cfgMode = .ctr) :
    exec .processBlock s = .next
      { s with dout := s.din.xor (forward s s.chain), chain := inc128 .byteBE s.chain, err := .ok } :=
  exec_processBlock_of_chainStep hk (.inr hi) (by rw [chainStep, hm, modeStep_ctr])

/-- Settles O35: the mode step of CTR, and the same after SET_IV. -/
theorem ctrStep : Obligations.CtrStep :=
  ⟨fun _ => exec_processBlock_ctr,
    fun s hk hm => ⟨_, _, exec_setIv s, exec_processBlock_ctr hk rfl hm, rfl, rfl⟩⟩

/-! ### The modes that use E alone (R179) -/

/-- CFB, OFB and CTR. -/
def IsFeedbackMode (m : Mode) : Prop := m = .cfb ∨ m = .ofb ∨ m = .ctr

theorem modeStep_output_of_isFeedbackMode {m : Mode} (h : IsFeedbackMode m) (order : CounterOrder)
    (e d : Block → Block) (dir : Dir) (x ch : Block) : (modeStep order e d m dir x ch).1 = x.xor (e ch) := by
  rcases h with rfl | rfl | rfl <;> cases dir <;> rfl

theorem modeStep_inverse_of_isFeedbackMode {m : Mode} (h : IsFeedbackMode m) (order : CounterOrder)
    (e d d' : Block → Block) (dir : Dir) (x ch : Block) :
    modeStep order e d m dir x ch = modeStep order e d' m dir x ch := by
  rcases h with rfl | rfl | rfl <;> cases dir <;> rfl

/-- Settles O37: the equations of these modes hold no D, and D alone reads DEC_RK. -/
theorem feedbackModesUseOnlyForward : Obligations.FeedbackModesUseOnlyForward := by
  intro s drk hk hi hm
  have other : chainStep .byteBE { s with decRk := drk } = chainStep .byteBE s :=
    modeStep_inverse_of_isFeedbackMode hm ..
  exact ⟨_, exec_processBlock_of_chainStep hk (.inr hi) rfl, modeStep_output_of_isFeedbackMode hm ..,
    exec_processBlock_of_chainStep (s := { s with decRk := drk }) hk (.inr hi) other⟩

end Sys2Proof.Machine
end

section
/-! PROOFS. ZEROIZE: the state it leaves, in every state (spec/45_lifecycle.md R200). -/

namespace Sys2Proof.Machine

/-- Of the registers, erasure and success keep ANYERR alone: all the others stand as at reset. -/
theorem cmdOk_eraseAll (s : State) :
    cmdOk (eraseAll s) = { State.reset with anyErr := s.anyErr, pending := s.pending, observed := s.observed } := rfl

theorem exec_zeroize (s : State) :
    exec .zeroize s = .next { State.reset with anyErr := s.anyErr, pending := s.pending, observed := s.observed } :=
  congrArg Host.Outcome.next (cmdOk_eraseAll s)

/-- Settles O44: ZEROIZE leaves the reset state but for ANYERR, in every state, and so in that state too. -/
theorem zeroizeCommand : Obligations.ZeroizeCommand :=
  fun s => ⟨exec_zeroize s, (exec_zeroize _).trans (exec_zeroize s).symm⟩

end Sys2Proof.Machine
end

section
/-! PROOFS. Errors: how each command ends, and from it the two endings of a write to CMD, what a refused command changes and
which of several causes is reported (spec/60_exceptions.md R211 to R213). -/

namespace Sys2Proof

/-- No key length has the reserved KLEN code (spec/30_encoding.md R72). -/
theorem KeyLen.toNat_code_ne (k : KeyLen) : k.code.toNat ≠ 3 := by cases k <;> decide

/-- No mode has a reserved MODE code (spec/30_encoding.md R73). -/
theorem Mode.toNat_code_le (m : Mode) : m.code.toNat ≤ 5 := by cases m <;> decide

namespace Machine

/-! ### How a command ends -/

/-- A command run in `s` ends in `t`: refused for one cause, or done (R211; the cases of R130, R136, R151, R162, R170, R178
and R200). -/
inductive CommandEnds (s : State) : Instr → State → Prop
  | badKeyLength (mode : BitVec 3) (dir : Dir) :
      CommandEnds s (.setKey 3 mode dir) (cmdError .badKeyLength (dropKey (clearKey s)))
  | badMode (k : KeyLen) {mode : BitVec 3} (hmode : 5 < mode.toNat) (dir : Dir) :
      CommandEnds s (.setKey k.code mode dir) (cmdError .badMode (dropKey (clearKey s)))
  | keySet (k : KeyLen) (m : Mode) (dir : Dir) :
      CommandEnds s (.setKey k.code m.code dir) (cmdOk (installKey k m dir s.key (clearKey s)))
  | ivSet : CommandEnds s .setIv (cmdOk { s with chain := s.iv, ivValid := true })
  | erased : CommandEnds s .zeroize (cmdOk (eraseAll s))
  | noKey {i : Instr} (hi : IsBlockCommand i) (hk : s.keyValid = false) : CommandEnds s i (cmdError .noKey s)
  | encrypted (hk : s.keyValid = true) : CommandEnds s .encryptBlock (cmdOk { s with dout := forward s s.din })
  | decrypted (hk : s.keyValid = true) : CommandEnds s .decryptBlock (cmdOk { s with dout := inverse s s.din })
  | noIv (hk : s.keyValid = true) (hm : s.cfgMode ≠ .ecb) (hiv : s.ivValid = false) :
      CommandEnds s .processBlock (cmdError .noIv s)
  | processed (hk : s.keyValid = true) (hiv : s.cfgMode = .ecb ∨ s.ivValid = true) :
      CommandEnds s .processBlock
        (cmdOk { s with dout := (chainStep .byteBE s).1, chain := (chainStep .byteBE s).2 })

theorem exec_isBlockCommand_ends {i : Instr} (hi : IsBlockCommand i) (s : State) :
    ∃ t, exec i s = .next t ∧ CommandEnds s i t := by
  cases hk : s.keyValid with
  | false =>
    refine ⟨_, ?_, .noKey hi hk⟩
    rcases hi with rfl | rfl | rfl
    · exact exec_encryptBlock_noKey hk
    · exact exec_decryptBlock_noKey hk
    · exact (exec_processBlock s).trans (congrArg _ (processBlock_noKey _ hk))
  | true =>
    rcases hi with rfl | rfl | rfl
    · exact ⟨_, exec_encryptBlock_ok hk, .encrypted hk⟩
    · exact ⟨_, exec_decryptBlock_ok hk, .decrypted hk⟩
    · by_cases hiv : s.cfgMode = .ecb ∨ s.ivValid = true
      · exact ⟨_, (exec_processBlock s).trans (congrArg _ (processBlock_ok _ hk hiv)), .processed hk hiv⟩
      · obtain ⟨hm, hiv⟩ := not_or.mp hiv
        have hiv : s.ivValid = false := Bool.eq_false_iff.mpr hiv
        exact ⟨_, (exec_processBlock s).trans (congrArg _ (processBlock_noIv _ hk hm hiv)), .noIv hk hm hiv⟩

theorem exec_command_ends {i : Instr} (hi : (commandWord i).isSome) (s : State) :
    ∃ t, exec i s = .next t ∧ CommandEnds s i t := by
  rcases command_cases hi with ⟨klen, mode, dir, rfl⟩ | rfl | rfl | hblock
  · rcases execSetKey_cases klen mode dir s with ⟨rfl, hs⟩ | ⟨hklen, hmode, hs⟩ | ⟨k, m, rfl, rfl, hs⟩
    · exact ⟨_, hs, .badKeyLength mode dir⟩
    · obtain ⟨k, rfl⟩ := KeyLen.exists_code hklen
      exact ⟨_, hs, .badMode k hmode dir⟩
    · exact ⟨_, hs, .keySet k m dir⟩
  · exact ⟨_, exec_setIv s, .ivSet⟩
  · exact ⟨_, rfl, .erased⟩
  · exact exec_isBlockCommand_ends hblock s

/-- Everything a write to CMD can do, with the word it wrote: refuse an illegal word, or end as the command of a legal
one. -/
theorem exec_hostWrite_cmd_ends (cw : Word) (s : State) :
    (illegalCommand cw = true ∧ exec (.hostWrite 0 cw) s = .next (cmdError .illegalCmd s))
    ∨ ∃ i t, illegalCommand cw = false ∧ commandWord i = some cw ∧ exec (.hostWrite 0 cw) s = .next t
        ∧ CommandEnds s i t := by
  cases hill : illegalCommand cw with
  | true => exact .inl ⟨rfl, exec_hostWrite_illegalCommand hill s⟩
  | false =>
    obtain ⟨i, hi⟩ := exists_commandWord_of_legal hill
    obtain ⟨t, ht, hends⟩ := exec_command_ends (i := i) (by simp [hi]) s
    exact .inr ⟨i, t, rfl, hi, (exec_hostWrite_commandWord hi s).trans ht, hends⟩

/-! ### The fields of a command's word -/

theorem setKeyWord_numbers (klen : BitVec 2) (mode : BitVec 3) (dir : Dir) :
    (setKeyWord klen mode dir).toNat % 16 = 1 ∧ (setKeyWord klen mode dir).toNat / 16 % 4 = klen.toNat
    ∧ (setKeyWord klen mode dir).toNat / 256 % 8 = mode.toNat := by
  rw [toNat_setKeyWord]
  omega

theorem op_of_isBlockCommand {i : Instr} (hi : IsBlockCommand i) {cw : Word} (hcw : commandWord i = some cw) :
    cw.toNat % 16 = 3 ∨ cw.toNat % 16 = 4 ∨ cw.toNat % 16 = 5 := by
  rcases hi with rfl | rfl | rfl <;> obtain rfl := Option.some.inj hcw
  · exact .inl rfl
  · exact .inr (.inl rfl)
  · exact .inr (.inr rfl)

/-! ### What an ending leaves in STATUS and in the other registers -/

namespace CommandEnds

variable {s t : State} {i : Instr} {cw : Word}

/-- Done, ERR is OK and ANYERR as before; refused, ERR is a code and ANYERR 1 (R211). -/
theorem status (h : CommandEnds s i t) : (t.err = .ok ∧ t.anyErr = s.anyErr) ∨ (t.err ≠ .ok ∧ t.anyErr = true) := by
  cases h with
  | badKeyLength | badMode | noKey | noIv => exact .inr ⟨nofun, rfl⟩
  | keySet | ivSet | erased | encrypted | decrypted | processed => exact .inl (by simp)

/-- Only SET_KEY, SET_IV and ZEROIZE, the commands of OP 1, 2 and 6, write KEY_VALID and IV_VALID (R211). -/
theorem keepsValid (h : CommandEnds s i t) (hcw : commandWord i = some cw) (h1 : cw.toNat % 16 ≠ 1)
    (h2 : cw.toNat % 16 ≠ 2) (h6 : cw.toNat % 16 ≠ 6) : t.keyValid = s.keyValid ∧ t.ivValid = s.ivValid := by
  cases h with
  | badKeyLength | badMode | keySet =>
    obtain rfl := Option.some.inj hcw
    exact (h1 (setKeyWord_numbers ..).1).elim
  | ivSet => obtain rfl := Option.some.inj hcw; exact (h2 rfl).elim
  | erased => obtain rfl := Option.some.inj hcw; exact (h6 rfl).elim
  | noKey | encrypted | decrypted | noIv | processed => exact ⟨rfl, rfl⟩

/-- A refused command records its code, and drops the key first if the code is one of SET_KEY's own (R212). -/
theorem eq_of_refused (h : CommandEnds s i t) (herr : t.err ≠ .ok) :
    t = if t.err = .badKeyLength ∨ t.err = .badMode then cmdError t.err (dropKey (clearKey s)) else cmdError t.err s := by
  cases h with
  | badKeyLength | badMode | noKey | noIv => rfl
  | keySet | ivSet | erased | encrypted | decrypted | processed => exact (herr (by simp)).elim

end CommandEnds

/-! ### The code a legal word reports -/

/-- The first cause, in the order of R213, for which the command of a legal word is refused. -/
def legalWordCause (cw : Word) (s : State) : ErrCode :=
  if cw.toNat % 16 = 1 ∧ cw.toNat / 16 % 4 = 3 then .badKeyLength
  else if cw.toNat % 16 = 1 ∧ 6 ≤ cw.toNat / 256 % 8 then .badMode
  else if (cw.toNat % 16 = 3 ∨ cw.toNat % 16 = 4 ∨ cw.toNat % 16 = 5) ∧ s.keyValid = false then .noKey
  else if cw.toNat % 16 = 5 ∧ s.cfgMode ≠ .ecb ∧ s.ivValid = false then .noIv
  else .ok

/-- The causes of a SET_KEY are in its KLEN and MODE alone. -/
theorem legalWordCause_setKeyWord (klen : BitVec 2) (mode : BitVec 3) (dir : Dir) (s : State) :
    legalWordCause (setKeyWord klen mode dir) s =
      if klen.toNat = 3 then .badKeyLength else if 5 < mode.toNat then .badMode else .ok := by
  obtain ⟨hop, hklen, hmode⟩ := setKeyWord_numbers klen mode dir
  simp [legalWordCause, hop, hklen, hmode, Nat.succ_le_iff]

/-- Without a key, NO_KEY is the first cause of each block command, whether or not an IV is lacking too. -/
theorem legalWordCause_noKey {i : Instr} (hi : IsBlockCommand i) {cw : Word} (hcw : commandWord i = some cw) {s : State}
    (hk : s.keyValid = false) : legalWordCause cw s = .noKey := by
  have hop := op_of_isBlockCommand hi hcw
  rw [legalWordCause, if_neg (by omega), if_neg (by omega), if_pos ⟨hop, hk⟩]

theorem CommandEnds.err_eq_legalWordCause {s t : State} {i : Instr} {cw : Word} (h : CommandEnds s i t)
    (hcw : commandWord i = some cw) : t.err = legalWordCause cw s := by
  cases h with
  | noKey hi hk => exact (legalWordCause_noKey hi hcw hk).symm
  | badKeyLength mode dir =>
    obtain rfl := Option.some.inj hcw
    rw [legalWordCause_setKeyWord]
    rfl
  | badMode k hmode dir =>
    obtain rfl := Option.some.inj hcw
    rw [legalWordCause_setKeyWord, if_neg (KeyLen.toNat_code_ne k), if_pos hmode, cmdError_err]
  | keySet k m dir =>
    obtain rfl := Option.some.inj hcw
    rw [legalWordCause_setKeyWord, if_neg (KeyLen.toNat_code_ne k), if_neg (Mode.toNat_code_le m).not_gt, cmdOk_err]
  | ivSet | erased => obtain rfl := Option.some.inj hcw; rfl
  | encrypted hk | decrypted hk => obtain rfl := Option.some.inj hcw; simp [legalWordCause, hk]
  | noIv hk hm hiv => obtain rfl := Option.some.inj hcw; simp [legalWordCause, hk, hm, hiv]
  | processed hk hiv => obtain rfl := Option.some.inj hcw; rcases hiv with hiv | hiv <;> simp [legalWordCause, hk, hiv]

/-! ### The statements -/

/-- Settles O45: the ending of an illegal word is an error, and that of a legal one its command's. -/
theorem everyCommandEndsByWritingStatus : Obligations.EveryCommandEndsByWritingStatus := by
  intro cw s
  rcases exec_hostWrite_cmd_ends cw s with ⟨-, hrun⟩ | ⟨i, t, -, hcw, hrun, hends⟩
  · exact ⟨_, hrun, .inr ⟨nofun, rfl⟩, fun _ _ _ => ⟨rfl, rfl⟩⟩
  · exact ⟨t, hrun, hends.status, hends.keepsValid hcw⟩

/-- Settles O46: an illegal word and a refused command record their code, and SET_KEY drops the key before it does. -/
theorem refusedCommandsChangeOnlyStatus : Obligations.RefusedCommandsChangeOnlyStatus := by
  intro cw s t hexec herr
  rcases exec_hostWrite_cmd_ends cw s with ⟨-, hrun⟩ | ⟨i, u, -, -, hrun, hends⟩ <;>
    obtain rfl := Host.Outcome.next.inj (hexec.symm.trans hrun)
  · rfl
  · have heq := hends.eq_of_refused herr
    split_ifs at heq ⊢ <;> exact heq

/-- Settles O47: an illegal word comes first, and then the causes of the legal word's command. -/
theorem firstCauseIsReported : Obligations.FirstCauseIsReported := by
  intro cw s t hexec
  rcases exec_hostWrite_cmd_ends cw s with ⟨hill, hrun⟩ | ⟨i, u, hlegal, hcw, hrun, hends⟩ <;>
    obtain rfl := Host.Outcome.next.inj (hexec.symm.trans hrun)
  · exact (if_pos hill).symm
  · exact (hends.err_eq_legalWordCause hcw).trans (if_neg (Bool.eq_false_iff.mp hlegal)).symm

end Machine

end Sys2Proof
end

section
/-! PROOFS. Reset and hazards: every register and both status views after reset (spec/70_reset_and_hazards.md R240), that
the raw block commands and PROCESS_BLOCK in ECB have nothing to do with CHAIN (R248), and that a change of key ends a stream
until the next SET_IV (R250). -/

namespace Sys2Proof.Machine

/-! ### Reset (R240) -/

@[simp] theorem statusWord_applyReset (s : State) : statusWord (applyReset s) = 0 := by
  simp [statusWord, flagWord, ErrCode.code]

@[simp] theorem configWord_applyReset (s : State) : configWord (applyReset s) = 0 := by
  simp [configWord, KeyLen.code, Mode.code, Dir.code]

theorem applyReset_reset : applyReset State.reset = State.reset := rfl

theorem step_rst {s : State} {rest : List HostInput} (h : s.pending = .rst :: rest) :
    step s = .next (applyReset { s with pending := rest }) := by
  rw [step, takeInput_rst h]

/-- Settles O58: the reset operation in every state, of which the reset state and the step that takes `rst` are cases. -/
theorem resetZeroesEveryRegister : Obligations.ResetZeroesEveryRegister := by
  unfold Obligations.ResetZeroesEveryRegister
  intro zeroed
  have zeroed_applyReset (s : State) : zeroed (applyReset s) :=
    ⟨rfl, rfl, rfl, rfl, rfl, rfl, rfl, rfl, rfl, rfl, rfl, rfl, rfl, rfl, rfl, statusWord_applyReset s,
      configWord_applyReset s⟩
  exact ⟨applyReset_reset ▸ zeroed_applyReset State.reset, zeroed_applyReset,
    fun s rest h => ⟨_, step_rst h, zeroed_applyReset _⟩⟩

/-! ### The commands that ignore CHAIN (R248) -/

/-- The step of ECB hands the chained value on, and its output is the same for any other. -/
theorem modeStep_ecb (order : CounterOrder) (e d : Block → Block) (dir : Dir) (x ch ch' : Block) :
    modeStep order e d .ecb dir x ch' = ((modeStep order e d .ecb dir x ch).1, ch') := by cases dir <;> rfl

theorem chainStep_ecb (order : CounterOrder) {s : State} (hm : s.cfgMode = .ecb) (ch : Block) :
    chainStep order { s with chain := ch } = ((chainStep order s).1, ch) := by
  simp only [chainStep, hm]
  exact modeStep_ecb ..

/-- PROCESS_BLOCK in ECB, whatever CHAIN holds: DOUT is what it is for any other CHAIN. -/
theorem exec_processBlock_ecb {s : State} (hk : s.keyValid = true) (hm : s.cfgMode = .ecb) (ch : Block) :
    exec .processBlock { s with chain := ch } =
      .next { s with dout := (chainStep .byteBE s).1, chain := ch, err := .ok } :=
  exec_processBlock_of_chainStep (s := { s with chain := ch }) hk (.inl hm) (chainStep_ecb _ hm ch)

theorem exec_isBlockCommand_noKey {i : Instr} (hi : IsBlockCommand i) {s : State} (hk : s.keyValid = false) :
    exec i s = .next (cmdError .noKey s) := by
  rcases hi with rfl | rfl | rfl
  · exact exec_encryptBlock_noKey hk
  · exact exec_decryptBlock_noKey hk
  · exact congrArg Host.Outcome.next (processBlock_noKey _ hk)

/-- Settles O41: with a key each of the commands writes DOUT from the schedules and DIN, and without one it is refused. -/
theorem ecbAndRawCommandsIgnoreChain : Obligations.EcbAndRawCommandsIgnoreChain := by
  intro i s ch hi
  rcases Bool.eq_false_or_eq_true s.keyValid with hk | hk
  · rcases hi with rfl | rfl | ⟨rfl, hm⟩
    · exact ⟨_, exec_encryptBlock_ok hk, rfl, exec_encryptBlock_ok (s := { s with chain := ch }) hk⟩
    · exact ⟨_, exec_decryptBlock_ok hk, rfl, exec_decryptBlock_ok (s := { s with chain := ch }) hk⟩
    · exact ⟨_, exec_processBlock_ecb hk hm s.chain, rfl, exec_processBlock_ecb hk hm ch⟩
  · have hblock : IsBlockCommand i := hi.imp_right (Or.imp_right And.left)
    exact ⟨_, exec_isBlockCommand_noKey hblock hk, rfl,
      exec_isBlockCommand_noKey (s := { s with chain := ch }) hblock hk⟩

/-! ### A change of key (R250) -/

/-- A successful SET_KEY leaves the block keyed, in the mode given and without an IV. -/
theorem exec_setKey_keyedWithoutIv (k : KeyLen) (m : Mode) (dir : Dir) (s : State) :
    ∃ t, exec (.setKey k.code m.code dir) s = .next t ∧ t.keyValid = true ∧ t.cfgMode = m ∧ t.ivValid = false :=
  ⟨_, (exec_setKey ..).trans (execSetKey_ok k m dir s), by simp, by simp, by simp⟩

theorem exec_processBlock_noIv {s : State} (hk : s.keyValid = true) (hm : s.cfgMode ≠ .ecb) (hiv : s.ivValid = false) :
    exec .processBlock s = .next (cmdError .noIv s) :=
  congrArg Host.Outcome.next (processBlock_noIv _ hk hm hiv)

/-- Settles O42: SET_KEY leaves no IV for PROCESS_BLOCK, whose refusal keeps the key, and SET_IV gives one. -/
theorem keyChangeEndsTheStream : Obligations.KeyChangeEndsTheStream := by
  intro k m dir s hm
  obtain ⟨t, hset, hk, rfl, hiv⟩ := exec_setKey_keyedWithoutIv k m dir s
  exact ⟨t, _, _, _, hset, hiv, exec_processBlock_noIv hk hm hiv, rfl, exec_setIv _,
    exec_processBlock_of_chainStep hk (.inr rfl) rfl, rfl⟩

end Sys2Proof.Machine
end

section
/-! PROOFS. Encoding and decoding undo each other (spec/30_encoding.md R70, R77, R80): a write is the transaction of the
command whose word it writes to CMD or of a well-formed HOST_WRITE, and a read that of a HOST_READ. -/

namespace Sys2Proof

/-! ### Writes: a command's word to CMD, or a well-formed HOST_WRITE (R77, log entry 5) -/

theorem wellFormed_hostWrite {idx : BitVec 5} {w : Word} :
    wellFormed (.hostWrite idx w) = true ↔ idx ≠ 0 ∨ illegalCommand w = true := by
  simp [wellFormed]

theorem write_cases (idx : BitVec 5) (w : Word) :
    (∃ i, idx = 0 ∧ commandWord i = some w) ∨ wellFormed (.hostWrite idx w) = true := by
  rw [wellFormed_hostWrite]
  by_cases hidx : idx = 0
  · cases hill : illegalCommand w with
    | true => exact .inr (.inr rfl)
    | false => exact .inl ((exists_commandWord_of_legal hill).imp fun _ hi => ⟨hidx, hi⟩)
  · exact .inr (.inl hidx)

theorem decodeWrite_commandWord {i : Instr} {cw : Word} (h : commandWord i = some cw) : decodeWrite 0 cw = i := by
  rw [decodeWrite, if_pos rfl, decodeCommand_commandWord h]

theorem decodeWrite_of_wellFormed {idx : BitVec 5} {w : Word} (h : wellFormed (.hostWrite idx w) = true) :
    decodeWrite idx w = .hostWrite idx w := by
  rw [decodeWrite]
  split_ifs with hidx
  · rw [decodeCommand_of_illegalCommand ((wellFormed_hostWrite.mp h).resolve_left (not_not.mpr hidx))]
  · rfl

theorem encode_of_commandWord {i : Instr} {cw : Word} (h : commandWord i = some cw) :
    encode i = transactionWord true 0 cw := by
  cases i with
  | setKey | setIv | encryptBlock | decryptBlock | processBlock | zeroize => obtain rfl := Option.some.inj h; rfl
  | hostWrite | hostRead => cases h

theorem wellFormed_of_commandWord {i : Instr} {cw : Word} (h : commandWord i = some cw) : wellFormed i = true := by
  cases i with
  | setKey | setIv | encryptBlock | decryptBlock | processBlock | zeroize => rfl
  | hostWrite | hostRead => cases h

/-! ### Decoding after encoding -/

theorem decodeTransaction_encode_of_commandWord {i : Instr} {cw : Word} (h : commandWord i = some cw) :
    decodeTransaction (encode i) = i := by
  rw [encode_of_commandWord h, decodeTransaction_write, decodeWrite_commandWord h]

theorem decodeTransaction_encode {i : Instr} (h : wellFormed i = true) : decodeTransaction (encode i) = i := by
  cases i with
  | setKey | setIv | encryptBlock | decryptBlock | processBlock | zeroize =>
    exact decodeTransaction_encode_of_commandWord rfl
  | hostWrite idx w => exact (decodeTransaction_write idx w).trans (decodeWrite_of_wellFormed h)
  | hostRead idx => exact decodeTransaction_read idx 0

theorem decodeTransaction_of_encode {t : Transaction} {i : Instr} (hwf : wellFormed i = true) (h : encode i = t) :
    decodeTransaction t = i := h ▸ decodeTransaction_encode hwf

/-- A 32-bit word is a write to CMD, and is decoded as a command word (R70, R77). -/
theorem decodeBits_word (cw : Word) : decodeBits 32 cw.toNat = decodeCommand cw := by
  simp [decodeBits, transactionOfBits, cw.isLt]

/-- Settles O2: the decoder gives back a command from its word, and any other well-formed instruction from its fields. -/
theorem decodeOfEncodeIsTheInstruction : Obligations.DecodeOfEncodeIsTheInstruction := by
  refine ⟨fun i h => decodeTransaction_encode h, fun i cw h => ?word⟩
  case word => rw [decodeTableWord, decodeBits_word, decodeCommand_commandWord h]

/-! ### Encoding after decoding -/

/-- A transaction is made of its three fields (R80). -/
theorem transactionWord_fields (t : Transaction) :
    transactionWord (t.getLsbD 37) (t.extractLsb' 32 5) (t.extractLsb' 0 32) = t := by
  refine BitVec.eq_of_getLsbD_eq fun i hi => ?_
  simp only [transactionWord_getLsbD, BitVec.getLsbD_extractLsb']
  grind

/-- The mask 0x1f00000000 keeps `idx` alone. -/
theorem transactionWord_and_idxMask (we : Bool) (idx : BitVec 5) (w : Word) :
    transactionWord we idx w &&& 0x1f00000000 = transactionWord false idx 0 := by
  have hmask : (0x1f00000000 : Transaction) = transactionWord false (BitVec.allOnes 5) 0 := by decide
  refine BitVec.eq_of_getLsbD_eq fun i hi => ?_
  simp only [hmask, BitVec.getLsbD_and, transactionWord_getLsbD, BitVec.getLsbD_allOnes]
  grind

theorem wellFormed_decodeWrite (idx : BitVec 5) (w : Word) : wellFormed (decodeWrite idx w) = true := by
  rcases write_cases idx w with ⟨i, rfl, hi⟩ | h
  · rw [decodeWrite_commandWord hi, wellFormed_of_commandWord hi]
  · rw [decodeWrite_of_wellFormed h, h]

theorem encode_decodeWrite (idx : BitVec 5) (w : Word) : encode (decodeWrite idx w) = transactionWord true idx w := by
  rcases write_cases idx w with ⟨i, rfl, hi⟩ | h
  · rw [decodeWrite_commandWord hi, encode_of_commandWord hi]
  · rw [decodeWrite_of_wellFormed h, encode]

/-- Settles O3: a transaction by its fields, a write and a read apart. -/
theorem encodeOfDecodeIsTheTransaction : Obligations.EncodeOfDecodeIsTheTransaction := by
  intro t
  rw [← transactionWord_fields t]
  generalize t.extractLsb' 32 5 = idx, t.extractLsb' 0 32 = w
  cases t.getLsbD 37 with
  | true =>
    rw [decodeTransaction_write, if_pos (transactionWord_we ..)]
    exact ⟨wellFormed_decodeWrite idx w, encode_decodeWrite idx w⟩
  | false =>
    rw [decodeTransaction_read, transactionWord_and_idxMask, transactionWord_we]
    exact ⟨rfl, rfl⟩

/-- Settles O1: each word is the transaction of a well-formed instruction. -/
theorem writtenOutWordsDecode : Obligations.WrittenOutWordsDecode := by
  refine ⟨?_, ?_, ?_, ?_, ?_, ?_, ?_, ?_, ?_⟩ <;> exact decodeTransaction_of_encode rfl rfl

end Sys2Proof
end

section
/-! PROOFS. The invariant of spec/10_state.md section 7: it holds at reset, what it says of KEY_VALID and NR (R41, R42), and
that every step keeps it, since a command installs the schedules of one secret, erases all, or keeps the schedules and sets
no KEY_VALID. -/

namespace Sys2Proof.Machine

/-! ### What keeps the invariant -/

/-- A change that keeps the schedules and CFG_KLEN and sets no KEY_VALID keeps the invariant. -/
theorem Inv.of_keepsSchedules {s t : State} (h : Inv s) (hkeeps : KeepsSchedules s t) (hlen : t.cfgKlen = s.cfgKlen)
    (hk : s.keyValid = false → t.keyValid = false) : Inv t := by
  obtain ⟨henc, hdec, hnr⟩ := hkeeps
  unfold Inv NoSchedules HoldsSchedulesOf at h ⊢
  rw [henc, hdec, hnr, hlen]
  exact h.imp_left fun ⟨hnone, hinvalid⟩ => ⟨hnone, hk hinvalid⟩

/-- The invariant of a state without key and schedules, as reset and ZEROIZE leave it. -/
theorem Inv.of_erased {s : State} (hnr : s.nr = 0) (henc : s.encRk = Schedule.zero) (hdec : s.decRk = Schedule.zero)
    (hk : s.keyValid = false) : Inv s := .inl ⟨⟨hnr, henc, hdec⟩, hk⟩

theorem Inv.applyReset (s : State) : Inv (applyReset s) := .of_erased rfl rfl rfl rfl

/-- SET_KEY with legal fields installs the schedules of the secret in KEY (R130). -/
theorem holdsSchedulesOf_keySet (k : KeyLen) (m : Mode) (dir : Dir) (secret : KeyRegs) (s : State) :
    HoldsSchedulesOf k secret (cmdOk (installKey k m dir secret s)) :=
  ⟨by simp, by simp, by simp⟩

theorem CommandEnds.inv {s t : State} {i : Instr} (h : CommandEnds s i t) (hs : Inv s) : Inv t := by
  cases h with
  | keySet k m dir => exact .inr ⟨s.key, by simpa using holdsSchedulesOf_keySet k m dir s.key (clearKey s)⟩
  | erased => exact .of_erased rfl rfl rfl rfl
  | badKeyLength | badMode => exact hs.of_keepsSchedules ⟨rfl, rfl, rfl⟩ rfl fun _ => rfl
  | ivSet | noKey | encrypted | decrypted | noIv | processed => exact hs.of_keepsSchedules ⟨rfl, rfl, rfl⟩ rfl id

theorem Inv.writeSlot {s : State} (h : Inv s) (idx : BitVec 5) (w : Word) : Inv (writeSlot s idx w) :=
  h.of_keepsSchedules (by simp [KeepsSchedules]) (by simp) (by simp)

theorem exec_keepsInv (i : Instr) {s : State} (h : Inv s) : ∃ t, exec i s = .next t ∧ Inv t := by
  rcases instr_cases i with ⟨c, ⟨hc, -⟩, hrun⟩ | ⟨cw, rfl, hill⟩ | ⟨idx, w, rfl, hidx⟩ | ⟨idx, rfl⟩
  · obtain ⟨t, ht, hends⟩ := exec_command_ends hc s
    exact ⟨t, (hrun s).trans ht, hends.inv h⟩
  · exact ⟨_, exec_hostWrite_illegalCommand hill s, h.of_keepsSchedules ⟨rfl, rfl, rfl⟩ rfl id⟩
  · exact ⟨_, exec_hostWrite hidx w s, h.writeSlot idx w⟩
  · exact ⟨_, exec_hostRead idx s, h.of_keepsSchedules ⟨rfl, rfl, rfl⟩ rfl id⟩

/-! ### The statements -/

/-- Settles O55: a step idles, resets, or runs an instruction, and each of the three keeps the invariant. -/
theorem stepKeepsTheInvariant : Obligations.StepKeepsTheInvariant := by
  intro s t hs hstep
  rcases step_cases hstep with ⟨-, rfl⟩ | ⟨u, -, rfl⟩ | ⟨w, u, htake, hexec⟩
  · exact hs
  · exact .applyReset u
  · obtain ⟨rest, rfl⟩ := takeInput_state (.inr ⟨w, htake⟩)
    have hs' : Inv { s with pending := rest } := hs.of_keepsSchedules ⟨rfl, rfl, rfl⟩ rfl id
    obtain ⟨v, hv, hinv⟩ := exec_keepsInv (decodeTransaction w) hs'
    obtain rfl := Host.Outcome.next.inj (hexec.symm.trans hv)
    exact hinv

/-- The round counts as NR holds them (spec/10_state.md R27). -/
theorem ofNat_rounds_cases (k : KeyLen) :
    BitVec.ofNat 5 (rounds k) = 10 ∨ BitVec.ofNat 5 (rounds k) = 12 ∨ BitVec.ofNat 5 (rounds k) = 14 := by
  cases k <;> decide

/-- Settles O56: each of the two cases of the invariant says what NR is, and only the second leaves room for a key. -/
theorem invariantAtResetAndItsMeaning : Obligations.InvariantAtResetAndItsMeaning := by
  refine ⟨Inv.applyReset State.reset, ?_⟩
  rintro s (⟨⟨hnr, -, -⟩, hinvalid⟩ | ⟨secret, hnr, henc, hdec⟩)
  · exact ⟨fun hk => absurd hk (by simp [hinvalid]), .inl hnr⟩
  · refine ⟨fun _ => ⟨?_, secret, henc, hdec⟩, .inr (hnr ▸ ofNat_rounds_cases s.cfgKlen)⟩
    rw [hnr, toNat_rounds, rounds_eq_code]

end Sys2Proof.Machine
end

section
/-! PROOFS. The two inverse ciphers agree (spec/43_block_decrypt.md R161), and each of the raw block commands takes back the
other (R163) in a state that holds the schedules of a secret. -/

namespace Sys2Proof.Machine

/-! ### D and the straightforward inverse cipher (R161) -/

/-- InvMixColumns of a sum with a round key of E is InvMixColumns and a sum with the mixed round key. -/
theorem invMixColumns_addRoundKey (s rk : Block) :
    invMixColumns (addRoundKey s rk) = addRoundKey (invMixColumns s) (invMixColumns rk) := invMixColumns_xor s rk

/-- What D has after r rounds is the state of the straightforward inverse cipher that has n middle rounds left. -/
theorem straightInverseRounds_decryptRounds {k : KeyLen} (key : KeyRegs) (b : Block) {r n : Nat}
    (h : r + (n + 1) = rounds k) :
    straightInverseRounds (encSchedule k key) n (decryptRounds (decSchedule k key) b r) =
      decryptBlock (decSchedule k key) (rounds k) b := by
  induction n generalizing r with
  | zero =>
    rw [straightInverseRounds, decryptBlock, roundKey_decSchedule_rounds, show rounds k - 1 = r by omega]
  | succ n ih =>
    rw [straightInverseRounds, invMixColumns_addRoundKey, ← roundKey_decSchedule_middle key (r := r) (by omega),
      ← decryptRounds, ih (by omega)]

/-- Settles O25: the two ciphers begin with the same round key and stay together round by round. -/
theorem inverseCiphersAgree : Obligations.InverseCiphersAgree := by
  intro k key b
  have hpos := rounds_pos k
  rw [straightInverse, ← roundKey_decSchedule_zero, ← decryptRounds,
    straightInverseRounds_decryptRounds key b (by omega)]

/-! ### The transforms of a state that holds a secret's schedules (R163) -/

namespace HoldsSchedulesOf

variable {k : KeyLen} {secret : KeyRegs} {s : State}

theorem forward_eq (h : HoldsSchedulesOf k secret s) : forward s = encryptBlock (encSchedule k secret) (rounds k) := by
  obtain ⟨hnr, henc, -⟩ := h
  funext b
  rw [forward, hnr, henc, toNat_rounds]

theorem inverse_eq (h : HoldsSchedulesOf k secret s) : inverse s = decryptBlock (decSchedule k secret) (rounds k) := by
  obtain ⟨hnr, -, hdec⟩ := h
  funext b
  rw [inverse, hnr, hdec, toNat_rounds]

theorem inverse_forward (h : HoldsSchedulesOf k secret s) (b : Block) : inverse s (forward s b) = b := by
  rw [h.inverse_eq, h.forward_eq, decryptBlock_encryptBlock]

theorem forward_inverse (h : HoldsSchedulesOf k secret s) (b : Block) : forward s (inverse s b) = b := by
  rw [h.inverse_eq, h.forward_eq, encryptBlock_decryptBlock]

end HoldsSchedulesOf

/-- Settles O27: the first command changes neither the schedules nor KEY_VALID, so the second runs the inverse of the first
one's transform. -/
theorem blockCommandsInvertEachOther : Obligations.BlockCommandsInvertEachOther := by
  intro k secret s hk hholds
  exact ⟨⟨_, _, exec_encryptBlock_ok hk, exec_decryptBlock_ok hk, hholds.inverse_forward s.din⟩,
    ⟨_, _, exec_decryptBlock_ok hk, exec_encryptBlock_ok hk, hholds.forward_inverse s.din⟩⟩

end Sys2Proof.Machine
end

section
/-! PROOFS. What spec/44_mode_engine.md section 3 derives of the modes: streams in the two directions undo each other (R182),
the keystream of CTR (R183), and that the output of a chained mode tells two chained values apart (R184). -/

namespace Sys2Proof

theorem Block.xor_right_injective (x : Block) : Function.Injective x.xor :=
  Function.LeftInverse.injective (Block.xor_cancel_left x)

namespace Machine

/-! ### A stream and back (R182) -/

/-- A decrypting step takes back the encrypting step from the same chained value, and chains the same value. -/
theorem modeStep_decrypt_encrypt (order : CounterOrder) {e d : Block → Block} (h : ∀ b, d (e b) = b) (m : Mode)
    (x ch : Block) :
    modeStep order e d m .decrypt (modeStep order e d m .encrypt x ch).1 ch =
      (x, (modeStep order e d m .encrypt x ch).2) := by
  cases m <;> simp [modeStep, h]

/-- A state that encrypts and one that decrypts, ready for a stream under the same schedules, mode and chained value. -/
structure StreamEnds (k : KeyLen) (secret : KeyRegs) (s t : State) : Prop where
  holds_enc : HoldsSchedulesOf k secret s
  holds_dec : HoldsSchedulesOf k secret t
  keyed_enc : s.keyValid = true
  keyed_dec : t.keyValid = true
  iv : s.cfgMode = .ecb ∨ s.ivValid = true ∧ t.ivValid = true
  dir_enc : s.cfgDir = .encrypt
  dir_dec : t.cfgDir = .decrypt
  mode : t.cfgMode = s.cfgMode
  chain : t.chain = s.chain

/-- One block of a stream. -/
theorem processBlock_din (order : CounterOrder) {s : State} (hk : s.keyValid = true)
    (hi : s.cfgMode = .ecb ∨ s.ivValid = true) (x : Block) {p : Block × Block}
    (h : chainStep order { s with din := x } = p) :
    processBlock order { s with din := x } = { s with din := x, dout := p.1, chain := p.2, err := .ok } := by
  rw [processBlock_ok order (s := { s with din := x }) hk hi, h, cmdOk]

/-- The decrypting end, fed the block that the encrypting end gave, gives that end's input, and both are ready for the next
block. -/
theorem StreamEnds.next {k : KeyLen} {secret : KeyRegs} {s t : State} (h : StreamEnds k secret s t)
    (order : CounterOrder) (x : Block) :
    let s' := processBlock order { s with din := x }
    let t' := processBlock order { t with din := s'.dout }
    t'.dout = x ∧ StreamEnds k secret s' t' := by
  obtain ⟨hs, ht, hks, hkt, hiv, hds, hdt, hm, hch⟩ := h
  have henc : chainStep order { s with din := x } = modeStep order (forward s) (inverse s) s.cfgMode .encrypt x s.chain := by
    rw [← hds]; rfl
  have hs' := processBlock_din order hks (hiv.imp_right And.left) x henc
  have hdec (y : Block) :
      chainStep order { t with din := y } = modeStep order (forward s) (inverse s) s.cfgMode .decrypt y s.chain := by
    rw [hs.forward_eq, hs.inverse_eq, ← ht.forward_eq, ← ht.inverse_eq, ← hdt, ← hm, ← hch]; rfl
  have ht' := processBlock_din order hkt (hm ▸ hiv.imp_right And.right) _
    ((hdec _).trans (modeStep_decrypt_encrypt order hs.inverse_forward s.cfgMode x s.chain))
  dsimp only
  rw [hs', ht']
  exact ⟨rfl, hs, ht, hks, hkt, hiv, hds, hdt, hm, rfl⟩

theorem StreamEnds.stream {k : KeyLen} {secret : KeyRegs} {s t : State} (h : StreamEnds k secret s t)
    (order : CounterOrder) (xs : List Block) :
    (stream order t (stream order s xs).1).1 = xs
    ∧ (stream order t (stream order s xs).1).2.chain = (stream order s xs).2.chain := by
  induction xs generalizing s t with
  | nil => exact ⟨rfl, h.chain⟩
  | cons x xs ih =>
    obtain ⟨hdout, hnext⟩ := h.next order x
    obtain ⟨houts, hchain⟩ := ih hnext
    exact ⟨congrArg₂ List.cons hdout houts, hchain⟩

/-- Settles O38: the two ends stay together block by block. -/
theorem streamRoundTrip : Obligations.StreamRoundTrip :=
  fun order _ _ _ _ xs hs ht hks hkt hiv hds hdt hm hch =>
    StreamEnds.stream ⟨hs, ht, hks, hkt, hiv, hds, hdt, hm, hch⟩ order xs

/-! ### The keystream of CTR (R183) -/

/-- Settles O39: CTR adds E of the counter to the block, and the increment adds one to the counter's number. -/
theorem ctrKeystream : Obligations.CtrKeystream := by
  intro s x hk hi hm
  refine ⟨_, exec_processBlock_ctr (s := { s with din := x }) hk hi hm, ?_, counterByteBE_inc128 s.chain⟩
  rw [Block.xor_comm x, Block.xor_xor_cancel]
  rfl

/-! ### Sensitivity to the chained value (R184) -/

/-- In a chained mode the output of an encrypting step is E of the block with the chained value, or the block with E of the
chained value. -/
theorem modeStep_encrypt_output_injective (order : CounterOrder) {e : Block → Block} (he : Function.Injective e)
    (d : Block → Block) {m : Mode} (hm : m ≠ .ecb) (x : Block) :
    Function.Injective fun ch => (modeStep order e d m .encrypt x ch).1 := by
  cases m with
  | ecb => exact (hm rfl).elim
  | cbc | pcbc => exact he.comp (Block.xor_right_injective x)
  | cfb | ofb | ctr => exact (Block.xor_right_injective x).comp he

/-- Settles O40: E is a bijection, so the output block determines the chained value. -/
theorem differentIvsGiveDifferentBlocks : Obligations.DifferentIvsGiveDifferentBlocks := by
  intro s iv hk hi hm hd hne
  refine ⟨_, _, exec_processBlock_of_config hk (.inr hi) rfl hd,
    exec_processBlock_of_config (s := { s with chain := iv }) hk (.inr hi) rfl hd, fun heq => hne ?_⟩
  have hinj := modeStep_encrypt_output_injective .byteBE (encryptBlock_bijective s.encRk s.nr.toNat).injective (inverse s)
    hm s.din
  exact (hinj heq).symm

end Machine

end Sys2Proof
end

section
/-! PROOFS. The commands: that every instruction completes (spec/60_exceptions.md R225), which registers a command may change
(spec/10_state.md sections 2 and 4), and the phases of the mode engine (R43). -/

namespace Sys2Proof.Machine

/-! ### Completion (R225) -/

/-- Settles O48: a command ends, and a host access stores, is ignored or returns a value. -/
theorem everyInstructionCompletes : Obligations.EveryInstructionCompletes := by
  intro i s
  rcases instr_cases i with ⟨c, ⟨hc, -⟩, hrun⟩ | ⟨cw, rfl, hill⟩ | ⟨idx, w, rfl, hidx⟩ | ⟨idx, rfl⟩
  · obtain ⟨t, ht, -⟩ := exec_command_ends hc s
    exact ⟨t, (hrun s).trans ht⟩
  · exact ⟨_, exec_hostWrite_illegalCommand hill s⟩
  · exact ⟨_, exec_hostWrite hidx w s⟩
  · exact ⟨_, exec_hostRead idx s⟩

/-! ### The registers a command may change -/

/-- OP of a command's word (spec/30_encoding.md R71); 0, which is no command, for a host transaction. -/
def opOf : Instr → Nat
  | .setKey _ _ _ => 1
  | .setIv => 2
  | .encryptBlock => 3
  | .decryptBlock => 4
  | .processBlock => 5
  | .zeroize => 6
  | .hostWrite _ _ => 0
  | .hostRead _ => 0

theorem op_of_commandWord {i : Instr} {cw : Word} (h : commandWord i = some cw) : cw.toNat % 16 = opOf i := by
  cases i with
  | setKey => obtain rfl := Option.some.inj h; exact (setKeyWord_numbers ..).1
  | setIv | encryptBlock | decryptBlock | processBlock | zeroize => obtain rfl := Option.some.inj h; rfl
  | hostWrite | hostRead => cases h

namespace CommandEnds

variable {s t : State} {i : Instr}

theorem keepsDinAndIv (h : CommandEnds s i t) (hop : opOf i ≠ 6) : t.din = s.din ∧ t.iv = s.iv := by
  cases h with
  | erased => exact (hop rfl).elim
  | keySet => exact ⟨by simp, by simp⟩
  | badKeyLength | badMode | ivSet | noKey | encrypted | decrypted | noIv | processed => exact ⟨rfl, rfl⟩

theorem keepsDout (h : CommandEnds s i t)
    (hop : ¬ (opOf i = 3 ∨ opOf i = 4 ∨ opOf i = 5 ∨ opOf i = 6) ∨ t.err ≠ .ok) : t.dout = s.dout := by
  cases h with
  | erased | encrypted | decrypted | processed => simp [opOf] at hop
  | keySet => simp
  | badKeyLength | badMode | ivSet | noKey | noIv => rfl

theorem keepsChain (h : CommandEnds s i t)
    (hop : ¬ (opOf i = 2 ∨ opOf i = 5 ∨ opOf i = 6) ∨ t.err ≠ .ok ∨ opOf i = 5 ∧ s.cfgMode = .ecb) :
    t.chain = s.chain := by
  cases h with
  | erased | ivSet => simp [opOf] at hop
  | processed =>
    have hm : s.cfgMode = .ecb := by simpa [opOf] using hop
    exact congrArg Prod.snd (chainStep_ecb .byteBE hm s.chain)
  | keySet => simp
  | badKeyLength | badMode | noKey | encrypted | decrypted | noIv => rfl

theorem keepsKeyAndConfig (h : CommandEnds s i t) (hop : ¬ (opOf i = 1 ∨ opOf i = 6)) :
    t.key = s.key ∧ t.cfgKlen = s.cfgKlen ∧ t.cfgMode = s.cfgMode ∧ t.cfgDir = s.cfgDir := by
  cases h with
  | badKeyLength | badMode | keySet => exact (hop (.inl rfl)).elim
  | erased => exact (hop (.inr rfl)).elim
  | ivSet | noKey | encrypted | decrypted | noIv | processed => exact ⟨rfl, rfl, rfl, rfl⟩

theorem keepsHost (h : CommandEnds s i t) : t.pending = s.pending ∧ t.observed = s.observed := by
  cases h with
  | keySet => exact ⟨by simp, by simp⟩
  | badKeyLength | badMode | ivSet | erased | noKey | encrypted | decrypted | noIv | processed => exact ⟨rfl, rfl⟩

end CommandEnds

/-- Settles O54: an illegal word changes STATUS alone, and a legal one what its command's ending may. -/
theorem commandFrames : Obligations.CommandFrames := by
  intro cw s t hexec
  rcases exec_hostWrite_cmd_ends cw s with ⟨-, hrun⟩ | ⟨i, u, -, hcw, hrun, hends⟩ <;>
    obtain rfl := Host.Outcome.next.inj (hexec.symm.trans hrun)
  · exact ⟨fun _ => ⟨rfl, rfl⟩, fun _ => rfl, fun _ => rfl, fun _ => ⟨rfl, rfl, rfl, rfl⟩, rfl, rfl⟩
  · dsimp only
    rw [op_of_commandWord hcw]
    exact ⟨hends.keepsDinAndIv, hends.keepsDout, hends.keepsChain, hends.keepsKeyAndConfig, hends.keepsHost⟩

/-! ### The phases (R43) -/

theorem phase_unkeyed {s : State} (hk : s.keyValid = false) : phase s = .unkeyed := by
  simp [phase, hk]

theorem phase_congr {s t : State} (hk : t.keyValid = s.keyValid) (hiv : t.ivValid = s.ivValid) : phase t = phase s := by
  rw [phase, phase, hk, hiv]

theorem exec_isBlockCommand_keepsPhase {i : Instr} (hi : IsBlockCommand i) (s : State) :
    ∃ t, exec i s = .next t ∧ phase t = phase s := by
  obtain ⟨t, ht, hends⟩ := exec_isBlockCommand_ends hi s
  obtain ⟨cw, hcw⟩ : ∃ cw, commandWord i = some cw := by rcases hi with rfl | rfl | rfl <;> exact ⟨_, rfl⟩
  have hop := op_of_isBlockCommand hi hcw
  obtain ⟨hk, hiv⟩ := hends.keepsValid hcw (by omega) (by omega) (by omega)
  exact ⟨t, ht, phase_congr hk hiv⟩

/-- Settles O57: each command by what it leaves in KEY_VALID and IV_VALID. -/
theorem phaseTransitions : Obligations.PhaseTransitions := by
  refine ⟨fun k m dir s => ?keyed, fun klen mode dir s h => ?refused, fun s => ?ivSet, fun s => ?erased,
    fun i s hi => exec_isBlockCommand_keepsPhase hi s⟩
  case keyed =>
    obtain ⟨t, ht, hk, -, hiv⟩ := exec_setKey_keyedWithoutIv k m dir s
    exact ⟨t, ht, by simp [phase, hk, hiv]⟩
  case refused =>
    obtain ⟨c, hc⟩ := execSetKey_refused h dir s
    exact ⟨_, hc, phase_unkeyed rfl⟩
  case ivSet =>
    refine ⟨_, exec_setIv s, ?_, rfl⟩
    cases hk : s.keyValid <;> cases hiv : s.ivValid <;> simp [phase, hk, hiv]
  case erased => exact ⟨_, exec_zeroize s, phase_unkeyed rfl⟩

end Sys2Proof.Machine
end

section
/-! PROOFS. One step by the input it takes (spec/20_memory.md R51, R56, R57; spec/70_reset_and_hazards.md R240, R241), and
several blocks side by side, of which a step steps one (spec/60_exceptions.md R221). -/

namespace Sys2Proof.Machine

/-! ### The input a step takes -/

theorem step_transaction {s : State} {t : Transaction} {rest : List HostInput} (h : s.pending = .transaction t :: rest) :
    step s = exec (decodeTransaction t) { s with pending := rest } := by
  rw [step, takeInput_transaction h]

theorem withFetchWord_of_transactionOfBits {nbits w : Nat} {t : Transaction} (h : transactionOfBits nbits w = some t)
    (s : State) : s.withFetchWord nbits w = { s with pending := .transaction t :: s.pending } := by
  rw [State.withFetchWord, presentBits, h]

/-- Settles O6: the oldest input is a transaction, issued by the host or made of the bits presented. -/
theorem stepRunsTheDecodedInstruction : Obligations.StepRunsTheDecodedInstruction := by
  refine ⟨fun s t rest h => step_transaction h, fun s nbits w t h => ?fetched⟩
  case fetched =>
    rw [withFetchWord_of_transactionOfBits h]
    exact step_transaction rfl

theorem step_idle {s : State} (h : s.pending = []) : step s = .next s := by
  rw [step, takeInput_nil h]

/-- Settles O7: a step by its input, nothing or a reset. -/
theorem stepIdlesAndResets : Obligations.StepIdlesAndResets :=
  ⟨fun _ => step_idle, fun _ _ => step_rst⟩

theorem step_byteAccess {s : State} {a : ByteAccess} {t : Transaction} {rest : List HostInput}
    (h : s.pending = .byteAccess a :: rest) (ha : transactionOfAccess a = some t) :
    step s = exec (decodeTransaction t) { s with pending := rest } := by
  simp [step, takeInput, h, ha]

theorem step_byteAccess_refused {s : State} {a : ByteAccess} {rest : List HostInput}
    (h : s.pending = .byteAccess a :: rest) (ha : transactionOfAccess a = none) : step s = .refused .transactionForm := by
  simp [step, takeInput, h, ha]

/-- Settles O8: the access is the transaction of its slot when it has that form (R51), and no transaction otherwise. -/
theorem otherAccessFormsAreRefused : Obligations.OtherAccessFormsAreRefused := by
  intro s a rest h
  split_ifs with hform
  · exact step_byteAccess h (if_pos hform)
  · exact step_byteAccess_refused h (if_neg hform)

/-! ### Several blocks side by side (R221) -/

theorem stepAt_of_none {k : Nat} {p : List State} (h : p[k]? = none) : stepAt k p = .next p := by
  rw [stepAt, h]

theorem stepAt_of_step {k : Nat} {p : List State} {s t : State} (h : p[k]? = some s) (hstep : step s = .next t) :
    stepAt k p = .next (p.set k t) := by
  rw [stepAt, h]
  dsimp only
  rw [hstep]

/-- Everything a step of block k that answers a next list can be: no such block, or a step of its state. -/
theorem stepAt_cases {k : Nat} {p q : List State} (h : stepAt k p = .next q) :
    (p[k]? = none ∧ q = p) ∨ ∃ s t, p[k]? = some s ∧ step s = .next t ∧ q = p.set k t := by
  unfold stepAt at h
  split at h
  · next hnone => exact .inl ⟨hnone, (Host.Outcome.next.inj h).symm⟩
  · next s hs =>
    split at h
    · next t ht => exact .inr ⟨s, t, hs, ht, (Host.Outcome.next.inj h).symm⟩
    · cases h
    · cases h

/-- A step of block k changes neither the number of blocks nor any other block (R221). -/
theorem stepAt_frame {k : Nat} {p q : List State} (h : stepAt k p = .next q) :
    q.length = p.length ∧ ∀ j, j ≠ k → q[j]? = p[j]? := by
  rcases stepAt_cases h with ⟨-, rfl⟩ | ⟨s, t, -, -, rfl⟩
  · exact ⟨rfl, fun _ _ => rfl⟩
  · exact ⟨List.length_set, fun j hj => List.getElem?_set_ne hj.symm⟩

/-- Settles O60: each step finds its own block as it was before the other step, and the two replacements commute. -/
theorem instancesAreIndependent : Obligations.InstancesAreIndependent := by
  refine ⟨fun k p q h => stepAt_frame h, fun j k p q q' r hne hq hr hq' => ?commute⟩
  case commute =>
    have hk : q[k]? = p[k]? := (stepAt_frame hq).2 k hne.symm
    have hj : q'[j]? = p[j]? := (stepAt_frame hq').2 j hne
    rcases stepAt_cases hq with ⟨hpj, rfl⟩ | ⟨s, t, hpj, hstep, rfl⟩
    · obtain rfl := Host.Outcome.next.inj (hr.symm.trans hq')
      exact stepAt_of_none (hj.trans hpj)
    · rw [stepAt_of_step (hj.trans hpj) hstep]
      rcases stepAt_cases hq' with ⟨hpk, rfl⟩ | ⟨s', t', hpk, hstep', rfl⟩
      · rw [← hr, stepAt_of_none (hk.trans hpk)]
      · rw [← hr, stepAt_of_step (hk.trans hpk) hstep', List.set_comm _ _ hne]

end Sys2Proof.Machine
end

section
/-! PROOFS. What reads reveal (spec/20_memory.md R63), the chained value saved and restored over the port
(spec/70_reset_and_hazards.md R247), and each command on a freshly reset block (R243). -/

namespace Sys2Proof

/-- The words of a block are all of it. -/
theorem Block.setWord_all (b c : Block) :
    (((b.setWord 0 (c.word 0)).setWord 1 (c.word 1)).setWord 2 (c.word 2)).setWord 3 (c.word 3) = c := rfl

namespace Machine

/-! ### Reads (R63) -/

/-- No slot reads KEY, IV, ENC_RK or DEC_RK. -/
theorem readSlot_of_secrets (s : State) (key : KeyRegs) (iv : Block) (erk drk : Schedule) (idx : BitVec 5) :
    readSlot { s with key := key, iv := iv, encRk := erk, decRk := drk } idx = readSlot s idx := by
  unfold readSlot
  split <;> rfl

/-- Settles O51: a read returns the value of the slot, which holds no secret, and changes the observation alone. -/
theorem readsRevealNoSecret : Obligations.ReadsRevealNoSecret :=
  fun s key iv erk drk idx =>
    ⟨readSlot s idx, exec_hostRead idx s, exec_hostRead_of_readSlot (readSlot_of_secrets s key iv erk drk idx)⟩

/-! ### Saving and restoring CHAIN (R247) -/

/-- Settles O43: the four writes fill IV with the words read, which are CHAIN's, and SET_IV copies IV. -/
theorem savedChainIsRestored : Obligations.SavedChainIsRestored := by
  intro s t
  rw [show readSlot s 24 = s.chain.word 0 from readSlot_chain s 0,
    show readSlot s 25 = s.chain.word 1 from readSlot_chain s 1,
    show readSlot s 26 = s.chain.word 2 from readSlot_chain s 2,
    show readSlot s 27 = s.chain.word 3 from readSlot_chain s 3]
  exact ⟨_, _, _, _, _, exec_hostWrite_iv 0 _ t, exec_hostWrite_iv 1 _ _, exec_hostWrite_iv 2 _ _,
    exec_hostWrite_iv 3 _ _, exec_setIv _, Block.setWord_all t.iv s.chain, rfl⟩

/-! ### A freshly reset block (R243) -/

/-- Settles O59: each command by its meaning, in a state without a key whose KEY is zero. -/
theorem commandsAfterReset : Obligations.CommandsAfterReset := by
  refine ⟨fun i hi => exec_isBlockCommand_noKey hi rfl, ?succeed, fun k m dir => ?setKey⟩
  case succeed =>
    rintro i (rfl | rfl)
    · exact ⟨_, exec_setIv _, rfl⟩
    · exact ⟨_, exec_zeroize _, rfl⟩
  case setKey => exact ⟨_, execSetKey_ok k m dir State.reset, by simp, by simp, by simp [State.reset, KeyRegs.zero]⟩

end Machine

end Sys2Proof
end
